-- ==== Sys2Proof/Config.lean ====
section
/-! DEFINITION. The implementation parameters of R6, one field for each row of its table, with the value this hardware
takes; every type and definition of the model takes them from here.  The widths are abbreviations, so that a bit vector of
width `XLEN` is one of width 64 wherever a lemma asks.  The values the spec leaves open are `opaque`, so that nothing can
be proved from a particular choice of them. -/

namespace Sys2Proof.Config

/-- The field modulus `P = 2^64 - 2^32 + 1` (R6, R8; decision D1).  PRESUMED by the spec itself: assumption 11. -/
def P : Nat := 0xFFFFFFFF00000001

/-- The generator base from which every root is derived (R6; fixed by the source). -/
def G : Nat := 7

/-- The multiplier in the exponent of the root of two (R6, R152). -/
def ROOT2_MUL : Nat := 5

/-- The divisor in the exponent of the root of two (R6, R152). -/
def ROOT2_DIV : Nat := 192

/-- The largest supported `log2` of the transform length (R6). -/
def MAX_LOG_N : Nat := 26

/-- The threshold of the overflow guard (R6, R151). -/
def GUARD : Nat := 61

/-- The largest `log_n` that the Unrolled strategy serves (R6, R135). -/
def UNROLLED_MAX_LOG_N : Nat := 10

/-- The width of the checked address intermediates of the table builder (R6, R154). -/
def ADDR_BITS : Nat := 32

/-- The Lucas-Lehmer seed (R6, R200). -/
def SEED : Nat := 4

/-- The width of a scalar register, a limb cell, a table cell (R6; decision D4). -/
abbrev XLEN : Nat := 64

/-- The number of scalar registers (R6, R21; decision D4). -/
abbrev NSREG : Nat := 16

/-- The width of a digit-width cell (R6, R43; decision D29). -/
abbrev DWBITS : Nat := 8

/-- The width of a command word (R6, R80; decision D5). -/
abbrev CMDLEN : Nat := 32

/-- The command-set version MSE-1, reported in CAP (R2, R38). -/
def VERSION : Nat := 1

/-- FREE VALUE.  One less than RESIDUE_ALIAS: the open parameter of R6 is any 64-bit value other than 0, and every such
value is `pred + 1` for exactly one `pred` of this type (R208 (a), decision D13; assumption 4). -/
opaque residueAliasPred : Fin (2 ^ XLEN - 2 + 1)

/-- RESIDUE_ALIAS, what RESIDUE reports when the packed word is zero and some limb is not (R6, R207, R208 (a)). -/
def residueAlias : BitVec XLEN := BitVec.ofNat XLEN (residueAliasPred.val + 1)

/-- FREE VALUE.  What limb `i` of X holds when the `k`-th use of free values by the model is a successful INIT and nothing
has written the limb since (R49, R79, U2; assumption 3). -/
opaque unwrittenLimb (k i : Nat) : BitVec XLEN

/-- FREE VALUE.  What scalar register `i` holds when the `k`-th use of free values by the model is a hardware reset
(R25, R48, U1; assumption 2). -/
opaque scalarAfterReset (k i : Nat) : BitVec XLEN

end Sys2Proof.Config
end

