-- ==== Sys2Proof/Word.lean ====
section
/-! DEFINITION. The types whose sizes R6 makes parameters: the scalar register, limb and table cell (`XLEN`, R21, R40 to
R42), the digit-width cell (`DWBITS`, R43), the command word (`CMDLEN`, R80) and the number of a scalar register (`NSREG`,
R21, R84). -/

namespace Sys2Proof

/-- A scalar register, a control register, a cell of X, W or U: XLEN bits, unsigned (R6, R21, R27). -/
abbrev Word := BitVec Config.XLEN

/-- A cell of the digit-width table DW: DWBITS bits (R6, R43). -/
abbrev Digit := BitVec Config.DWBITS

/-- A command word: CMDLEN bits (R6, R80). -/
abbrev Command := BitVec Config.CMDLEN

/-- The number of a scalar register, below NSREG (R6, R21, R84). -/
abbrev SReg := Fin Config.NSREG

/-- The word holding `v mod 2^XLEN`. -/
abbrev wordOf (v : Nat) : Word := BitVec.ofNat Config.XLEN v

end Sys2Proof
end

