-- ==== Sys2Proof/Syntax.lean ====
section
/-! DEFINITION. The commands of the command set MSE-1: one constructor per row of the opcode map (R85), in its order.
`rd`, `ra`, `rb` are scalar register numbers (R84); an immediate is the unsigned number it encodes (R83), and
`Instr.wellFormed` says which numbers fit its field (assumption 16). -/

namespace Sys2Proof

/-- A command (R85). -/
inductive Instr where
  /-- Changes nothing (R227). -/
  | nop
  /-- Engine reset, scalar registers kept (R229). -/
  | sreset
  /-- `S[rd] <- imm16` (R223). -/
  | ldi (rd : SReg) (imm16 : Nat)
  /-- `S[rd] <- control register imm12` (R225). -/
  | rdcr (rd : SReg) (imm12 : Nat)
  /-- `S[rd] <- S[ra]` (R224). -/
  | mov (rd ra : SReg)
  /-- Field addition (R108). -/
  | fadd (rd ra rb : SReg)
  /-- Field subtraction (R109). -/
  | fsub (rd ra rb : SReg)
  /-- Field multiplication (R110). -/
  | fmul (rd ra rb : SReg)
  /-- Field square (R111). -/
  | fsqr (rd ra : SReg)
  /-- Reduction of a 128-bit integer (R112). -/
  | fred (rd ra rb : SReg)
  /-- Field power (R113). -/
  | fpow (rd ra rb : SReg)
  /-- Field inverse (R114). -/
  | finv (rd ra : SReg)
  /-- Elementwise product of X and W (R121). -/
  | vmulw
  /-- Elementwise product of X and U (R122). -/
  | vmulu
  /-- Elementwise square of X (R123). -/
  | vsqr
  /-- Forward transform of X (R136). -/
  | nttf
  /-- Inverse transform of X, not divided by n (R137). -/
  | ntti
  /-- `Initialise(S[ra], S[rb])` (R160). -/
  | init (ra rb : SReg)
  /-- `AutoInitialise(S[ra])` (R165). -/
  | autoinit (ra : SReg)
  /-- Carry propagation with wrap-around (R182). -/
  | carry
  /-- Add `S[ra] < 2^32` at limb `S[rb]` (R187). -/
  | add32 (ra rb : SReg)
  /-- Add `S[ra]` at limb `S[rb]` (R188). -/
  | add64 (ra rb : SReg)
  /-- Subtract `S[ra] < 2^32` at limb `S[rb]` (R190). -/
  | sub32 (ra rb : SReg)
  /-- One Lucas-Lehmer squaring step (R195). -/
  | mul
  /-- Seed X with 4 (R200). -/
  | seed
  /-- Seed, then `S[ra]` squaring steps, or `Q - 2` when `S[ra] = 0` (R202). -/
  | run (ra : SReg)
  /-- `S[rd] <-` the low 64 bits of the residue (R207). -/
  | residue (rd : SReg)
  /-- `S[rd] <- X[S[ra] + imm12]` (R221). -/
  | ldx (rd ra : SReg) (imm12 : Nat)
  /-- `X[S[ra] + imm12] <- S[rb]` (R222). -/
  | stx (ra rb : SReg) (imm12 : Nat)
  /-- `S[rd] <- W[S[ra] + imm12]` (R226). -/
  | ldw (rd ra : SReg) (imm12 : Nat)
  /-- `S[rd] <- U[S[ra] + imm12]` (R230). -/
  | ldu (rd ra : SReg) (imm12 : Nat)
  /-- `S[rd] <- DW[S[ra] + imm12]` (R231). -/
  | ldd (rd ra : SReg) (imm12 : Nat)
  deriving DecidableEq, Repr

end Sys2Proof
end

