-- ==== Sys2Proof/WellFormed.lean ====
section
/-! DEFINITION. Which terms of `Instr` stand for a command word: a register number is in range by its type, so the
only checks are that an immediate fits its field (R81, R83). -/

namespace Sys2Proof

/-- The immediate of format DI fits in 16 bits (R81). -/
def fitsImm16 (v : Nat) : Bool := decide (v < 2 ^ 16)

/-- The immediate of formats DC, DAM and ABM fits in 12 bits (R81). -/
def fitsImm12 (v : Nat) : Bool := decide (v < 2 ^ 12)

/-- The instruction has an encoding: every immediate fits its field. -/
def Instr.wellFormed : Instr → Bool
  | .nop => true
  | .sreset => true
  | .ldi _ imm16 => fitsImm16 imm16
  | .rdcr _ imm12 => fitsImm12 imm12
  | .mov _ _ => true
  | .fadd _ _ _ => true
  | .fsub _ _ _ => true
  | .fmul _ _ _ => true
  | .fsqr _ _ => true
  | .fred _ _ _ => true
  | .fpow _ _ _ => true
  | .finv _ _ => true
  | .vmulw => true
  | .vmulu => true
  | .vsqr => true
  | .nttf => true
  | .ntti => true
  | .init _ _ => true
  | .autoinit _ => true
  | .carry => true
  | .add32 _ _ => true
  | .add64 _ _ => true
  | .sub32 _ _ => true
  | .mul => true
  | .seed => true
  | .run _ => true
  | .residue _ => true
  | .ldx _ _ imm12 => fitsImm12 imm12
  | .stx _ _ imm12 => fitsImm12 imm12
  | .ldw _ _ imm12 => fitsImm12 imm12
  | .ldu _ _ imm12 => fitsImm12 imm12
  | .ldd _ _ imm12 => fitsImm12 imm12

end Sys2Proof
end

