-- ==== Sys2Proof/Decode.lean ====
section
/-! DEFINITION. The command word: its fields (R81), the ten formats and their must-be-zero bits (R82), the opcode map
(R85), the decoder (total: R87) and, after it, the encoder (R89). -/

namespace Sys2Proof

/-- `op`, bits 31:24 (R81). -/
def opField (w : Command) : BitVec 8 := w.extractLsb' 24 8

/-- `rd`, bits 23:20 (R81). -/
def rdField (w : Command) : SReg := (w.extractLsb' 20 4).toFin

/-- `ra`, bits 19:16 (R81). -/
def raField (w : Command) : SReg := (w.extractLsb' 16 4).toFin

/-- `rb`, bits 15:12 (R81). -/
def rbField (w : Command) : SReg := (w.extractLsb' 12 4).toFin

/-- `imm12`, bits 11:0, unsigned (R81, R83). -/
def imm12Field (w : Command) : Nat := (w.extractLsb' 0 12).toNat

/-- `imm16`, bits 15:0, unsigned (R81, R83). -/
def imm16Field (w : Command) : Nat := (w.extractLsb' 0 16).toNat

/-- The ten formats of R82. -/
inductive Format where
  | z | d | a | ab | da | dab | di | dc | dam | abm
  deriving DecidableEq, Repr

/-- The must-be-zero bits of a format (R82). -/
def Format.mustBeZero : Format → Command
  | .z => 0x00FFFFFF
  | .d => 0x000FFFFF
  | .a => 0x00F0FFFF
  | .ab => 0x00F00FFF
  | .da => 0x0000FFFF
  | .dab => 0x00000FFF
  | .di => 0x000F0000
  | .dc => 0x000FF000
  | .dam => 0x0000F000
  | .abm => 0x00F00000

/-- The bits a decoder compares: the opcode and the must-be-zero bits (R82). -/
def Format.mask (f : Format) : Command := 0xFF000000 ||| f.mustBeZero

/-- One row of the opcode map: an opcode and its format (R85). -/
abbrev OpcodeRow := BitVec 8 × Format

/-- The opcodes of the system group 0x0_ and of the modular kernel 0x1_ (R85). -/
def kernelOpcodes : List OpcodeRow :=
  [(0x00#8, .z), (0x01#8, .z), (0x02#8, .di), (0x03#8, .dc), (0x04#8, .da), (0x10#8, .dab), (0x11#8, .dab),
   (0x12#8, .dab), (0x13#8, .da), (0x14#8, .dab), (0x15#8, .dab), (0x16#8, .da)]

/-- The opcodes of the vector, transform and initialisation groups 0x2_ to 0x4_ (R85). -/
def arrayOpcodes : List OpcodeRow :=
  [(0x20#8, .z), (0x21#8, .z), (0x22#8, .z), (0x30#8, .z), (0x31#8, .z), (0x40#8, .ab), (0x41#8, .a)]

/-- The opcodes of the Mersenne engine 0x5_ and of cell access 0x6_ (R85). -/
def engineOpcodes : List OpcodeRow :=
  [(0x50#8, .z), (0x51#8, .ab), (0x52#8, .ab), (0x53#8, .ab), (0x54#8, .z), (0x55#8, .z), (0x56#8, .a), (0x57#8, .d),
   (0x60#8, .dam), (0x61#8, .abm), (0x62#8, .dam), (0x63#8, .dam), (0x64#8, .dam)]

/-- The opcode map: every opcode with its format, in the order of R85. -/
def opcodeMap : List OpcodeRow := kernelOpcodes ++ arrayOpcodes ++ engineOpcodes

/-- The match value of a row: `op * 2^24` (R82). -/
def rowMatch (r : OpcodeRow) : Command := r.1 ++ 0#24

/-- Why a word is illegal (R87). -/
inductive DecodeError where
  /-- `op` is not one of the 32 opcodes. -/
  | unknownOpcode (op : BitVec 8)
  /-- A must-be-zero bit of the opcode's format is 1. -/
  | mustBeZero (f : Format)
  deriving DecidableEq, Repr

/-- The instruction `i` if the must-be-zero bits of its format are zero in `w` (R87). -/
def checkFormat (w : Command) (f : Format) (i : Instr) : Except DecodeError Instr :=
  if w &&& f.mustBeZero = 0#Config.CMDLEN then .ok i else .error (.mustBeZero f)

/-- The decoder: the command a word stands for, or why it is illegal (R82, R85, R87). -/
def decode (w : Command) : Except DecodeError Instr :=
  match (opField w).toNat with
  | 0x00 => checkFormat w .z .nop
  | 0x01 => checkFormat w .z .sreset
  | 0x02 => checkFormat w .di (.ldi (rdField w) (imm16Field w))
  | 0x03 => checkFormat w .dc (.rdcr (rdField w) (imm12Field w))
  | 0x04 => checkFormat w .da (.mov (rdField w) (raField w))
  | 0x10 => checkFormat w .dab (.fadd (rdField w) (raField w) (rbField w))
  | 0x11 => checkFormat w .dab (.fsub (rdField w) (raField w) (rbField w))
  | 0x12 => checkFormat w .dab (.fmul (rdField w) (raField w) (rbField w))
  | 0x13 => checkFormat w .da (.fsqr (rdField w) (raField w))
  | 0x14 => checkFormat w .dab (.fred (rdField w) (raField w) (rbField w))
  | 0x15 => checkFormat w .dab (.fpow (rdField w) (raField w) (rbField w))
  | 0x16 => checkFormat w .da (.finv (rdField w) (raField w))
  | 0x20 => checkFormat w .z .vmulw
  | 0x21 => checkFormat w .z .vmulu
  | 0x22 => checkFormat w .z .vsqr
  | 0x30 => checkFormat w .z .nttf
  | 0x31 => checkFormat w .z .ntti
  | 0x40 => checkFormat w .ab (.init (raField w) (rbField w))
  | 0x41 => checkFormat w .a (.autoinit (raField w))
  | 0x50 => checkFormat w .z .carry
  | 0x51 => checkFormat w .ab (.add32 (raField w) (rbField w))
  | 0x52 => checkFormat w .ab (.add64 (raField w) (rbField w))
  | 0x53 => checkFormat w .ab (.sub32 (raField w) (rbField w))
  | 0x54 => checkFormat w .z .mul
  | 0x55 => checkFormat w .z .seed
  | 0x56 => checkFormat w .a (.run (raField w))
  | 0x57 => checkFormat w .d (.residue (rdField w))
  | 0x60 => checkFormat w .dam (.ldx (rdField w) (raField w) (imm12Field w))
  | 0x61 => checkFormat w .abm (.stx (raField w) (rbField w) (imm12Field w))
  | 0x62 => checkFormat w .dam (.ldw (rdField w) (raField w) (imm12Field w))
  | 0x63 => checkFormat w .dam (.ldu (rdField w) (raField w) (imm12Field w))
  | 0x64 => checkFormat w .dam (.ldd (rdField w) (raField w) (imm12Field w))
  | _ => .error (.unknownOpcode (opField w))

/-- The word `op, rd, ra, rb, imm12` from its fields (R81, R89). -/
def packWord (op : BitVec 8) (rd ra rb : SReg) (imm12 : Nat) : Command :=
  op ++ BitVec.ofNat 4 rd.val ++ BitVec.ofNat 4 ra.val ++ BitVec.ofNat 4 rb.val ++ BitVec.ofNat 12 imm12

/-- The word `op, rd, 0, imm16` of format DI from its fields (R81, R89). -/
def packWordDI (op : BitVec 8) (rd : SReg) (imm16 : Nat) : Command :=
  op ++ BitVec.ofNat 4 rd.val ++ 0#4 ++ BitVec.ofNat 16 imm16

/-- The word of a command (R89); an immediate that does not fit its field is cut to it. -/
def encode : Instr → Command
  | .nop => packWord 0x00 0 0 0 0
  | .sreset => packWord 0x01 0 0 0 0
  | .ldi rd imm16 => packWordDI 0x02 rd imm16
  | .rdcr rd imm12 => packWord 0x03 rd 0 0 imm12
  | .mov rd ra => packWord 0x04 rd ra 0 0
  | .fadd rd ra rb => packWord 0x10 rd ra rb 0
  | .fsub rd ra rb => packWord 0x11 rd ra rb 0
  | .fmul rd ra rb => packWord 0x12 rd ra rb 0
  | .fsqr rd ra => packWord 0x13 rd ra 0 0
  | .fred rd ra rb => packWord 0x14 rd ra rb 0
  | .fpow rd ra rb => packWord 0x15 rd ra rb 0
  | .finv rd ra => packWord 0x16 rd ra 0 0
  | .vmulw => packWord 0x20 0 0 0 0
  | .vmulu => packWord 0x21 0 0 0 0
  | .vsqr => packWord 0x22 0 0 0 0
  | .nttf => packWord 0x30 0 0 0 0
  | .ntti => packWord 0x31 0 0 0 0
  | .init ra rb => packWord 0x40 0 ra rb 0
  | .autoinit ra => packWord 0x41 0 ra 0 0
  | .carry => packWord 0x50 0 0 0 0
  | .add32 ra rb => packWord 0x51 0 ra rb 0
  | .add64 ra rb => packWord 0x52 0 ra rb 0
  | .sub32 ra rb => packWord 0x53 0 ra rb 0
  | .mul => packWord 0x54 0 0 0 0
  | .seed => packWord 0x55 0 0 0 0
  | .run ra => packWord 0x56 0 ra 0 0
  | .residue rd => packWord 0x57 rd 0 0 0
  | .ldx rd ra imm12 => packWord 0x60 rd ra 0 imm12
  | .stx ra rb imm12 => packWord 0x61 0 ra rb imm12
  | .ldw rd ra imm12 => packWord 0x62 rd ra 0 imm12
  | .ldu rd ra imm12 => packWord 0x63 rd ra 0 imm12
  | .ldd rd ra imm12 => packWord 0x64 rd ra 0 imm12

/-- What the decoder reads from an opcode-table word of `nbits` bits: every bit above `nbits` is 0, and a command is one
word of CMDLEN = 32 bits (R80), so nothing is laid out in memory. -/
def decodeTableWord (nbits w : Nat) : Option Instr :=
  match decode (BitVec.ofNat Config.CMDLEN (w % 2 ^ nbits)) with
  | .ok i => some i
  | .error _ => none

end Sys2Proof
end

