-- ==== Sys2Proof/Machine/State.lean ====
section
/-! DEFINITION. The state of one engine (R20), the transactions a host can make (R62), the reasons the MODEL can stop,
and the state after reset (R48).  The engine's own faults are no stops: they are next states (R240, R243). -/

namespace Sys2Proof.Machine

/-- The selected transform strategy, control register STRAT (R35, R135). -/
inductive Strategy where
  | none | unrolled | fourStep | fastish
  deriving DecidableEq, Repr

/-- The flags of STATUS, control register 0 (R28); bits 63:6 read as zero and are not stored. -/
structure Status where
  /-- Bit 0: a command is executing.  Never 1 between two steps of a model of atomic commands (R28). -/
  busy : Bool
  /-- Bit 1: tables, strategy and X exist. -/
  initok : Bool
  /-- Bit 2: the last Initialise attempt returned false. -/
  fail : Bool
  /-- Bit 3: a fault is recorded. -/
  err : Bool
  /-- Bit 4: the engine is halted. -/
  fatal : Bool
  /-- Bit 5: the last RESIDUE found every limb zero. -/
  z : Bool
  deriving DecidableEq, Repr

/-- The four per-limb memories (R40 to R43, R60).  Cell `i` of a memory stands at position `i` of its list, and a list
holds exactly the cells that exist, so an index without an entry is a cell that does not exist (assumption 5). -/
structure Memory where
  /-- X, the limbs (R40). -/
  x : List Word
  /-- W, the weight table (R41). -/
  w : List Word
  /-- U, the unweight table (R42). -/
  u : List Word
  /-- DW, the digit-width table (R43). -/
  dw : List Digit
  deriving DecidableEq, Repr

/-- The memories while INITOK = 0: no cell exists (R48). -/
def Memory.empty : Memory := { x := [], w := [], u := [], dw := [] }

/-- What the host can do to the engine (R62). -/
inductive HostMove where
  /-- `HostWrite(offset, v)` (R62 to R65). -/
  | write (offset : Nat) (v : Word)
  /-- `HostRead(offset)` (R62, R63, R65). -/
  | read (offset : Nat)
  /-- Hardware reset (R62, R270). -/
  | reset
  /-- A bus access of another width than 64 bits, `bytes` long: no transaction of this interface (R68, U13). -/
  | narrow (offset bytes : Nat)
  deriving DecidableEq, Repr

/-- The codes of the engine's faults and fatal violations (R242).  `raiseFault` and `fatalHalt` record them. -/
inductive FaultCode where
  | illegalCmd | notInit | badArg | indexRange | noncanon | invZero | fatalRoot2 | fatalExhausted
  deriving DecidableEq, Repr

/-- The whole state of one engine and of the host moves it has yet to serve. -/
structure State where
  /-- S0 to S15 (R21). -/
  scalars : Vector Word Config.NSREG
  /-- STATUS, control register 0 (R28). -/
  status : Status
  /-- FAULT, control register 1: CODE in bits 7:0, CMDW in bits 63:32 (R29). -/
  fault : Word
  /-- FINFO, control register 2 (R29). -/
  finfo : Word
  /-- Q, control register 3 (R30). -/
  q : Word
  /-- LOGN, control register 4: bits 4:0; the others read as zero (R31). -/
  logn : BitVec 5
  /-- WIDTH, control register 6 (R33). -/
  width : Word
  /-- ROOT2, control register 7 (R34). -/
  root2 : Word
  /-- STRAT, control register 8 (R35). -/
  strat : Strategy
  /-- ICNT, control register 9 (R36). -/
  icnt : Word
  /-- RESID, control register 10 (R37). -/
  resid : Word
  /-- X, W, U and DW (R40 to R43). -/
  mem : Memory
  /-- MODEL'S OWN: how many times free values have been drawn (assumption 17). -/
  freeCount : Nat
  /-- MODEL'S OWN: the host transactions not yet served, the next one first (assumption 6). -/
  inbox : List HostMove
  /-- MODEL'S OWN: the data that the last HostRead returned (assumption 6). -/
  reply : Option Word
  deriving DecidableEq, Repr

/-- Why the model stops with a fault. -/
inductive Fault where
  /-- Raised by CARRY, ADD32, ADD64, SUB32, MUL and RUN when a carry loop does not end: only in states no run reaches,
  where every digit width is 0, or a memory is empty, while INITOK = 1 (R189 `as long as q ≥ 1`).  Safe: the spec's
  loop has no end there (assumption 9). -/
  | carryDiverges
  deriving DecidableEq, Repr

/-- Why the model refuses. -/
inductive Refusal where
  /-- An arm of `exec` without a meaning; no arm answers so.  Safe. -/
  | notModelled (mnemonic : String)
  /-- Raised by the sequencer for a transaction other than a read of STATUS or a hardware reset while BUSY = 1: the spec
  gives it no move (R66, U14).  Safe, and unreachable, since commands are atomic (assumption 7). -/
  | hostWhileBusy
  deriving DecidableEq, Repr

/-- STATUS = 0 (R48). -/
def Status.reset : Status :=
  { busy := false, initok := false, fail := false, err := false, fatal := false, z := false }

/-- The engine right after a hardware reset (R48, R271): every control register and flag 0, no memory; the scalar
registers, which R25 leaves unspecified, hold 0 here (DESIGN CHOICE, assumption 1); no host transaction is pending. -/
def State.reset : State :=
  { scalars := Vector.replicate Config.NSREG 0#Config.XLEN
    status := Status.reset
    fault := 0#Config.XLEN
    finfo := 0#Config.XLEN
    q := 0#Config.XLEN
    logn := 0#5
    width := 0#Config.XLEN
    root2 := 0#Config.XLEN
    strat := .none
    icnt := 0#Config.XLEN
    resid := 0#Config.XLEN
    mem := Memory.empty
    freeCount := 0
    inbox := []
    reply := Option.none }

end Sys2Proof.Machine
end

