-- ==== Sys2Proof/Machine/Field.lean ====
section
/-! DEFINITION. The seven field functions of the modular kernel (R100 to R106), over natural numbers, so that no
intermediate is ever cut to 64 bits (R100, R102, R115). -/

namespace Sys2Proof.Machine

/-- `fadd(a, b) = (a + b) mod P` (R100). -/
def fadd (a b : Nat) : Nat := (a + b) % Config.P

/-- `fsub(a, b) = (a - b) mod P`, in [0, P) also when `a < b` (R101, R15). -/
def fsub (a b : Nat) : Nat := (((a : Int) - (b : Int)) % (Config.P : Int)).toNat

/-- `fred(hi, lo) = (hi * 2^64 + lo) mod P`, of two halves of XLEN = 64 bits (R104). -/
def fred (hi lo : Nat) : Nat := (hi * 2 ^ Config.XLEN + lo) % Config.P

/-- `fmul(a, b) = (a * b) mod P`, of the full double-width product (R102). -/
def fmul (a b : Nat) : Nat := (a * b) % Config.P

/-- `fsqr(a) = fmul(a, a)` (R103). -/
def fsqr (a : Nat) : Nat := fmul a a

/-- Binary exponentiation over the low `bits` bits of `e`, the method R105 names. -/
def fpowBits : Nat → Nat → Nat → Nat
  | 0, _, _ => 1
  | bits + 1, x, e =>
    if e = 0 then 1
    else if e % 2 = 1 then fmul x (fpowBits bits (fsqr x) (e / 2))
    else fpowBits bits (fsqr x) (e / 2)

/-- `fpow(x, e) = x^e mod P` for `e < 2^64`, with `fpow(x, 0) = 1` also for `x = 0` (R105).  Every exponent of the spec is
below 2^64: a register, `P - 2`, `(P - 1)/n`, `5(P - 1)/(192 n)`, or at most `n`. -/
def fpow (x e : Nat) : Nat := fpowBits Config.XLEN x e

/-- `finv(x) = fpow(x, P - 2)`, the inverse of an `x` other than 0 (R106). -/
def finv (x : Nat) : Nat := fpow x (Config.P - 2)

/-- A field element: a value below P (R19, R107). -/
def isField (v : Nat) : Bool := decide (v < Config.P)

end Sys2Proof.Machine
end

