-- ==== Sys2Proof/Machine/Flags.lean ====
section
/-! DEFINITION. STATUS and the other control registers as the words that RDCR and the host read (R27 to R38), and the
writes of single STATUS flags. -/

namespace Sys2Proof.Machine

/-- A flag at bit `k` of STATUS. -/
def flagBit (b : Bool) (k : Nat) : Nat := if b then 2 ^ k else 0

/-- The word of STATUS (R28): BUSY 0, INITOK 1, FAIL 2, ERR 3, FATAL 4, Z 5, the rest zero. -/
def statusWord (st : Status) : Word :=
  wordOf (flagBit st.busy 0 + flagBit st.initok 1 + flagBit st.fail 2 + flagBit st.err 3 + flagBit st.fatal 4 + flagBit st.z 5)

/-- The CODE of R242. -/
def faultCode : FaultCode → BitVec 8
  | .illegalCmd => 0x01
  | .notInit => 0x02
  | .badArg => 0x03
  | .indexRange => 0x04
  | .noncanon => 0x05
  | .invZero => 0x06
  | .fatalRoot2 => 0x80
  | .fatalExhausted => 0x81

/-- The word of FAULT: CMDW in bits 63:32, zeros in 31:8, CODE in 7:0 (R29). -/
def faultWord (code : FaultCode) (cmdw : Command) : Word := cmdw ++ 0#24 ++ faultCode code

/-- The word of STRAT: 0 none, 1 Unrolled, 2 FourStep, 3 Fastish (R35). -/
def strategyWord : Strategy → Word
  | .none => 0
  | .unrolled => 1
  | .fourStep => 2
  | .fastish => 3

/-- The transform length `n = 2^LOGN` of an initialised engine (R17, R32). -/
def State.n (s : State) : Nat := 2 ^ s.logn.toNat

/-- N, control register 5: 2^LOGN while INITOK = 1, else 0 (R32). -/
def lengthWord (s : State) : Word := if s.status.initok then wordOf s.n else 0#Config.XLEN

/-- MODP, control register 11 (R38). -/
def modpWord : Word := wordOf Config.P

/-- CAP, control register 12: MAX_LOG_N in 4:0, GUARD in 15:8, NSREG in 23:16, the version in 31:24 (R38). -/
def capWord : Word :=
  wordOf (Config.MAX_LOG_N + Config.GUARD * 2 ^ 8 + Config.NSREG * 2 ^ 16 + Config.VERSION * 2 ^ 24)

/-- The value of control register `k` (R27); the numbers 13 and above name no register. -/
def controlRegister (s : State) : Nat → Option Word
  | 0 => some (statusWord s.status)
  | 1 => some s.fault
  | 2 => some s.finfo
  | 3 => some s.q
  | 4 => some (s.logn.setWidth Config.XLEN)
  | 5 => some (lengthWord s)
  | 6 => some s.width
  | 7 => some s.root2
  | 8 => some (strategyWord s.strat)
  | 9 => some s.icnt
  | 10 => some s.resid
  | 11 => some modpWord
  | 12 => some capWord
  | _ => Option.none

/-- STATUS.INITOK <- b. -/
def State.setInitok (s : State) (b : Bool) : State := { s with status := { s.status with initok := b } }

/-- STATUS.FAIL <- b. -/
def State.setFail (s : State) (b : Bool) : State := { s with status := { s.status with fail := b } }

/-- STATUS.ERR <- b. -/
def State.setErr (s : State) (b : Bool) : State := { s with status := { s.status with err := b } }

/-- STATUS.FATAL <- b. -/
def State.setFatal (s : State) (b : Bool) : State := { s with status := { s.status with fatal := b } }

/-- STATUS.Z <- b. -/
def State.setZ (s : State) (b : Bool) : State := { s with status := { s.status with z := b } }

end Sys2Proof.Machine
end

