-- ==== Sys2Proof/Machine/Ops.lean ====
section
/-! DEFINITION. The named operations every meaning is written over: scalar registers, cells, the record of a fault
(R243), the fatal halt (R245), and the two resets (R229, R270). -/

namespace Sys2Proof.Machine

/-- How a meaning ends. -/
abbrev Outcome := Host.Outcome State Fault Refusal

/-- `S[i]` (R17). -/
def State.readS (s : State) (i : SReg) : Word := s.scalars[i.val]

/-- `S[i] <- v` (R17, R22: no register is hardwired). -/
def State.writeS (s : State) (i : SReg) (v : Word) : State := { s with scalars := s.scalars.set i.val v }

/-- Cell `i` of a 64-bit memory (R17 MemRead).  Every caller has checked that the cell exists; a list without the cell, in
a state no run reaches, reads as 0 (assumption 18). -/
def cell (l : List Word) (i : Nat) : Word := l.getD i 0#Config.XLEN

/-- Digit width `i` (R17 MemRead of DW), with the same remark as `cell`. -/
def digit (l : List Digit) (i : Nat) : Nat := (l.getD i 0#8).toNat

/-- X <- l, a whole new limb array. -/
def State.setX (s : State) (l : List Word) : State := { s with mem := { s.mem with x := l } }

/-- `X[i] <- v` (R17 MemWrite). -/
def State.writeX (s : State) (i : Nat) (v : Word) : State := s.setX (s.mem.x.set i v)

/-- ICNT <- v (R36). -/
def State.setIcnt (s : State) (v : Word) : State := { s with icnt := v }

/-- RESID <- v (R37). -/
def State.setResid (s : State) (v : Word) : State := { s with resid := v }

/-- `raise Fault(CODE, info)` (R243): the first fault since reset is recorded, a later one is not; nothing else changes. -/
def raiseFault (code : FaultCode) (cmdw : Command) (info : Word) (s : State) : State :=
  if s.status.err || s.status.fatal then s
  else { (s.setErr true) with fault := faultWord code cmdw, finfo := info }

/-- `fatal(CODE)` (R245): the engine halts, its memories cease to exist (R252); the record is kept when a fault already
stands in it.  ERR and FAIL are left as they are. -/
def fatalHalt (code : FaultCode) (cmdw : Command) (info : Word) (s : State) : State :=
  let h : State := { ((s.setFatal true).setInitok false) with strat := .none, mem := Memory.empty }
  if s.status.err then h else { h with fault := faultWord code cmdw, finfo := info }

/-- Every control register, flag and memory at its reset value, S0 to S15 kept: what SRESET does (R229, R48). -/
def softReset (s : State) : State :=
  { State.reset with scalars := s.scalars, freeCount := s.freeCount, inbox := s.inbox, reply := s.reply }

/-- Hardware reset as a host transaction (R270, R48): as `softReset`, and each scalar register holds an unspecified value
(R25, U1), drawn afresh (assumption 2). -/
def hardReset (s : State) : State :=
  { softReset s with
    scalars := Vector.ofFn (fun i : SReg => Config.scalarAfterReset s.freeCount i.val)
    freeCount := s.freeCount + 1 }

end Sys2Proof.Machine
end

