-- ==== Sys2Proof/Machine/Operands.lean ====
section
/-! DEFINITION. The operand checks that meanings share, in the order R248 gives them, and the one addressing mode (R220).
Each takes the command word that a fault would record (R243) and the rest of the meaning, which runs when the check
passes. -/

namespace Sys2Proof.Machine

/-- The command ends by a fault (R243): a next state. -/
def faultOut (code : FaultCode) (cmdw : Command) (info : Word) (s : State) : Outcome :=
  .next (raiseFault code cmdw info s)

/-- NOT_INIT unless the engine is initialised (R91, R242). -/
def needInit (cmdw : Command) (s : State) (rest : Outcome) : Outcome :=
  if s.status.initok then rest else faultOut .notInit cmdw 0#Config.XLEN s

/-- BAD_ARG with the offending value unless `ok` (R242). -/
def needArg (ok : Bool) (cmdw : Command) (v : Word) (s : State) (rest : Outcome) : Outcome :=
  if ok then rest else faultOut .badArg cmdw v s

/-- INDEX_RANGE with the index mod 2^64 unless the index is below n; the comparison is over the integers (R71, R220). -/
def needIndex (cmdw : Command) (idx : Nat) (s : State) (rest : Outcome) : Outcome :=
  if idx < s.n then rest else faultOut .indexRange cmdw (wordOf idx) s

/-- NONCANON with the value unless it is a field element (R107). -/
def needField (cmdw : Command) (v : Word) (s : State) (rest : Outcome) : Outcome :=
  if isField v.toNat then rest else faultOut .noncanon cmdw v s

/-- `idx = S[ra] + zext_64(imm12)` over the integers (R220). -/
def cellIndex (s : State) (ra : SReg) (imm12 : Nat) : Nat := (s.readS ra).toNat + imm12

end Sys2Proof.Machine
end

