-- ==== Sys2Proof/Machine/Access.lean ====
section
/-! DEFINITION. Cell access and system commands (45_access_system.md): LDX, STX, LDW, LDU, LDD, LDI, MOV, RDCR, NOP,
SRESET. -/

namespace Sys2Proof.Machine

/-- NOP (R227): changes nothing. -/
def execNop (s : State) : Outcome := .next s

/-- SRESET (R229): every control register, flag and memory as after a hardware reset, S0 to S15 kept. -/
def execSreset (s : State) : Outcome := .next (softReset s)

/-- LDI (R223): the zero-extended immediate. -/
def execLdi (rd : SReg) (imm16 : Nat) (s : State) : Outcome := .next (s.writeS rd (wordOf imm16))

/-- MOV (R224): the register as it is, unchecked. -/
def execMov (rd ra : SReg) (s : State) : Outcome := .next (s.writeS rd (s.readS ra))

/-- RDCR (R225): the control register, or BAD_ARG for a number that names none. -/
def execRdcr (rd : SReg) (imm12 : Nat) (s : State) : Outcome :=
  match controlRegister s imm12 with
  | some v => .next (s.writeS rd v)
  | Option.none => faultOut .badArg (encode (.rdcr rd imm12)) (wordOf imm12) s

/-- A load of one cell (R220): `S[rd] <-` the cell at the index, or INDEX_RANGE. -/
def loadCell (cmdw : Command) (rd : SReg) (idx : Nat) (v : Word) (s : State) : Outcome :=
  needInit cmdw s <| needIndex cmdw idx s <| .next (s.writeS rd v)

/-- LDX (R221). -/
def execLdx (rd ra : SReg) (imm12 : Nat) (s : State) : Outcome :=
  loadCell (encode (.ldx rd ra imm12)) rd (cellIndex s ra imm12) (cell s.mem.x (cellIndex s ra imm12)) s

/-- LDW (R226). -/
def execLdw (rd ra : SReg) (imm12 : Nat) (s : State) : Outcome :=
  loadCell (encode (.ldw rd ra imm12)) rd (cellIndex s ra imm12) (cell s.mem.w (cellIndex s ra imm12)) s

/-- LDU (R230). -/
def execLdu (rd ra : SReg) (imm12 : Nat) (s : State) : Outcome :=
  loadCell (encode (.ldu rd ra imm12)) rd (cellIndex s ra imm12) (cell s.mem.u (cellIndex s ra imm12)) s

/-- LDD (R231): the 8-bit cell, zero-extended. -/
def execLdd (rd ra : SReg) (imm12 : Nat) (s : State) : Outcome :=
  loadCell (encode (.ldd rd ra imm12)) rd (cellIndex s ra imm12) (wordOf (digit s.mem.dw (cellIndex s ra imm12))) s

/-- STX (R222): NOT_INIT, INDEX_RANGE, NONCANON in that order, then the store. -/
def execStx (ra rb : SReg) (imm12 : Nat) (s : State) : Outcome :=
  let cmdw := encode (.stx ra rb imm12)
  needInit cmdw s <|
  needIndex cmdw (cellIndex s ra imm12) s <|
  needField cmdw (s.readS rb) s <|
  .next (s.writeX (cellIndex s ra imm12) (s.readS rb))

end Sys2Proof.Machine
end

