-- ==== Sys2Proof/Machine/Carry.lean ====
section
/-! DEFINITION. The mixed-radix carry unit (R180 to R192): the two limb steps, the wrap-around loops, and the commands
CARRY, ADD32, ADD64 and SUB32. -/

namespace Sys2Proof.Machine

/-- `add_step` on a limb of `d` bits (R181): the new limb and the carry out, over the integers. -/
def addStep (d : Nat) (x : Word) (c : Int) : Word × Int :=
  let t : Int := (x.toNat : Int) + c
  (wordOf (t % ((2 ^ d : Nat) : Int)).toNat, t / ((2 ^ d : Nat) : Int))

/-- `sub_step` on a limb of `d` bits (R181): the new limb and the borrow out, `-floor(t / 2^d)`. -/
def subStep (d : Nat) (x : Word) (b : Int) : Word × Int :=
  let t : Int := (x.toNat : Int) - b
  (wordOf (t % ((2 ^ d : Nat) : Int)).toNat, -(t / ((2 ^ d : Nat) : Int)))

/-- The loop of ADD_PROC and SUB_PROC (R187, R190): limb steps from limb i, the index wrapping to 0 at n (R71), until the
carry or borrow is 0.  `fuel` bounds the number of limb steps; `none` when it does not suffice (assumption 9). -/
def limbLoop (limbStep : Nat → Word → Int → Word × Int) (dw : List Digit) (n : Nat) :
    Nat → List Word → Int → Nat → Option (List Word)
  | 0, x, c, _ => if c = 0 then some x else Option.none
  | fuel + 1, x, c, i =>
    if c = 0 then some x
    else
      let r := limbStep (digit dw i) (cell x i) c
      limbLoop limbStep dw n fuel (x.set i r.1) r.2 ((i + 1) % n)

/-- A bound on the limb steps of a loop started with carry or borrow c over n limbs of 64-bit cells: after one lap every
limb is below its bound and the carry is at most `|c| + n 2^64`; each further lap lowers a carry above 1, and a carry of
1 lasts at most two laps (R189).  More fuel never changes the result. -/
def loopFuel (n : Nat) (c : Int) : Nat := n * (c.natAbs + n * 2 ^ Config.XLEN + 4)

/-- ADD_PROC(c, i) (R187). -/
def addProc (dw : List Digit) (n : Nat) (x : List Word) (c : Int) (i : Nat) : Option (List Word) :=
  limbLoop addStep dw n (loopFuel n c) x c i

/-- SUB_PROC(b, i) (R190). -/
def subProc (dw : List Digit) (n : Nat) (x : List Word) (b : Int) (i : Nat) : Option (List Word) :=
  limbLoop subStep dw n (loopFuel n b) x b i

/-- The first pass of CARRY (R182): `c = add_step(i, c)` for i = 0 to n - 1; the new limbs and the carry out of the last. -/
def carryPass : List Word → List Digit → Int → List Word × Int
  | x :: xs, d :: ds, c =>
    let r := addStep d.toNat x c
    let rest := carryPass xs ds r.2
    (r.1 :: rest.1, rest.2)
  | xs, _, c => (xs, c)

/-- Step 6 of the squaring (R182): the pass, then re-injection of a nonzero carry at limb 0. -/
def carryProc (dw : List Digit) (n : Nat) (x : List Word) : Option (List Word) :=
  let p := carryPass x dw 0
  if p.2 ≠ 0 then addProc dw n p.1 p.2 0 else some p.1

/-- The command ends with X <- x, or the model stops because the carry loop has no end. -/
def finishX (x : Option (List Word)) (s : State) : Outcome :=
  match x with
  | some l => .next (s.setX l)
  | Option.none => .fault .carryDiverges

/-- CARRY (R182). -/
def execCarry (s : State) : Outcome :=
  needInit (encode .carry) s <| finishX (carryProc s.mem.dw s.n s.mem.x) s

/-- ADD32 (R187), with the checks of R186. -/
def execAdd32 (ra rb : SReg) (s : State) : Outcome :=
  let cmdw := encode (.add32 ra rb)
  let c := (s.readS ra).toNat
  let i0 := (s.readS rb).toNat
  needInit cmdw s <|
  needArg (decide (c < 2 ^ 32)) cmdw (s.readS ra) s <|
  needIndex cmdw i0 s <|
  finishX (addProc s.mem.dw s.n s.mem.x c i0) s

/-- ADD64 (R188), with the checks of R186 but no range check on c. -/
def execAdd64 (ra rb : SReg) (s : State) : Outcome :=
  let cmdw := encode (.add64 ra rb)
  let c := (s.readS ra).toNat
  let i0 := (s.readS rb).toNat
  needInit cmdw s <|
  needIndex cmdw i0 s <|
  finishX (addProc s.mem.dw s.n s.mem.x c i0) s

/-- SUB32 (R190), with the checks of R186. -/
def execSub32 (ra rb : SReg) (s : State) : Outcome :=
  let cmdw := encode (.sub32 ra rb)
  let c := (s.readS ra).toNat
  let i0 := (s.readS rb).toNat
  needInit cmdw s <|
  needArg (decide (c < 2 ^ 32)) cmdw (s.readS ra) s <|
  needIndex cmdw i0 s <|
  finishX (subProc s.mem.dw s.n s.mem.x c i0) s

end Sys2Proof.Machine
end

