-- ==== Sys2Proof/Machine/VectorOps.lean ====
section
/-! DEFINITION. The elementwise operations on the limb memory (41_vector_ops.md, R120 to R123). -/

namespace Sys2Proof.Machine

/-- `vector_mul(x, weights)`: `x[i] := fmul(x[i], weights[i])` (R120). -/
def vectorMul (x weights : List Word) : List Word :=
  List.zipWith (fun a b => wordOf (fmul a.toNat b.toNat)) x weights

/-- `vector_sqr(x)`: `x[i] := fsqr(x[i])` (R120). -/
def vectorSqr (x : List Word) : List Word := x.map (fun a => wordOf (fsqr a.toNat))

/-- VMULW (R121): enter the weighted domain. -/
def execVmulw (s : State) : Outcome :=
  needInit (encode .vmulw) s <| .next (s.setX (vectorMul s.mem.x s.mem.w))

/-- VMULU (R122): leave the weighted domain and apply the 1/n normalisation. -/
def execVmulu (s : State) : Outcome :=
  needInit (encode .vmulu) s <| .next (s.setX (vectorMul s.mem.x s.mem.u))

/-- VSQR (R123): the pointwise square. -/
def execVsqr (s : State) : Outcome :=
  needInit (encode .vsqr) s <| .next (s.setX (vectorSqr s.mem.x))

end Sys2Proof.Machine
end

