-- ==== Sys2Proof/Machine/Transform.lean ====
section
/-! DEFINITION. The number-theoretic transform (42_transform.md): the root of unity (R130), the functions `forward` and
`inverse` (R131, R132), the selection of a strategy (R135), Bailey's four steps (R140), and the commands NTTF and NTTI.
All three strategies compute the same function (R138), so the commands are written over that one function. -/

namespace Sys2Proof.Machine

/-- `ω_n = fpow(G, (P - 1)/n)` for `n = 2^logn` (R130). -/
def rootOfUnity (logn : Nat) : Nat := fpow Config.G ((Config.P - 1) / 2 ^ logn)

/-- `(Σ_j v[j] * y^j) mod P`, by Horner's rule: one output cell of a transform with `y = ω^k` (R131). -/
def powerSum (y : Nat) : List Word → Nat
  | [] => 0
  | a :: rest => fadd a.toNat (fmul y (powerSum y rest))

/-- The array `V[k] = (Σ_j v[j] * ω^(j k)) mod P`, in natural order of k (R131). -/
def transform (ω : Nat) (v : List Word) : List Word :=
  (List.range v.length).map (fun k => wordOf (powerSum (fpow ω k) v))

/-- `forward(v)` (R131). -/
def forward (logn : Nat) (v : List Word) : List Word := transform (rootOfUnity logn) v

/-- `inverse(V)`, not divided by n (R132). -/
def inverse (logn : Nat) (v : List Word) : List Word := transform (finv (rootOfUnity logn)) v

/-- The strategy that a successful INIT or AUTOINIT selects from LOGN alone (R135). -/
def selectStrategy (logn : Nat) : Strategy :=
  if logn ≤ Config.UNROLLED_MAX_LOG_N then .unrolled
  else if logn % 2 = 0 then .fourStep
  else .fastish

/-- Row r of Bailey's matrix after step 2: the length-n2 transform of row r of `A[r][c] = x[r + n1 c]`, times the
twiddle factors `ω^(r k2)` (R140 steps 1 and 2, with `n1 = n2 = m`). -/
def fourStepRow (ω m : Nat) (x : List Word) (r : Nat) : List Word :=
  let row := transform (fpow ω m) ((List.range m).map (fun c => cell x (r + m * c)))
  (List.range m).map (fun k2 => wordOf (fmul (cell row k2).toNat (fpow ω (r * k2))))

/-- Column k2 of the matrix after step 3: the length-n1 transform of column k2 of the twiddled rows (R140 step 3). -/
def fourStepColumn (ω m : Nat) (rows : List (List Word)) (k2 : Nat) : List Word :=
  transform (fpow ω m) (rows.map (fun row => cell row k2))

/-- Bailey's four steps on an `m * m` vector with root ω (R140), the transpose `V[k2 + n2 k1] = C[k1][k2]` last: what the
FourStep strategy does inside.  No command calls it: it computes `transform ω x` (R138). -/
def fourStep (ω m : Nat) (x : List Word) : List Word :=
  let rows := (List.range m).map (fourStepRow ω m x)
  let columns := (List.range m).map (fourStepColumn ω m rows)
  (List.range (m * m)).map (fun k => cell (columns.getD (k % m) []) (k / m))

/-- NTTF (R136): X <- forward(X). -/
def execNttf (s : State) : Outcome :=
  needInit (encode .nttf) s <| .next (s.setX (forward s.logn.toNat s.mem.x))

/-- NTTI (R137): X <- inverse(X). -/
def execNtti (s : State) : Outcome :=
  needInit (encode .ntti) s <| .next (s.setX (inverse s.logn.toNat s.mem.x))

end Sys2Proof.Machine
end

