-- ==== Sys2Proof/Machine/Engine.lean ====
section
/-! DEFINITION. The Mersenne engine: MUL (R195), SEED (R200), RUN (R202) and RESIDUE (R207). -/

namespace Sys2Proof.Machine

/-- Steps 1 to 5 of MUL_PROC (R195): weight, transform, square, transform back, unweight and normalise. -/
def squareStages (logn : Nat) (w u x : List Word) : List Word :=
  let x1 := vectorMul x w
  let x2 := forward logn x1
  let x3 := vectorSqr x2
  let x4 := inverse logn x3
  vectorMul x4 u

/-- The new X of MUL_PROC (R195): steps 1 to 5, carry propagation, and the subtraction of 2 at limb 0. -/
def mulX (m : Memory) (logn : Nat) : Option (List Word) :=
  match carryProc m.dw (2 ^ logn) (squareStages logn m.w m.u m.x) with
  | some x => subProc m.dw (2 ^ logn) x 2 0
  | Option.none => Option.none

/-- MUL_PROC() (R195): the new X, and ICNT one more, mod 2^64. -/
def mulProc (s : State) : Option State :=
  match mulX s.mem s.logn.toNat with
  | some x => some ((s.setX x).setIcnt (s.icnt + 1#Config.XLEN))
  | Option.none => Option.none

/-- SEED_PROC() (R200): limb 0 is 4, all other limbs 0, ICNT is 0; no check against DW[0] (R201). -/
def seedProc (s : State) : State :=
  (s.setX (wordOf Config.SEED :: List.replicate (s.n - 1) 0#Config.XLEN)).setIcnt 0#Config.XLEN

/-- `repeat count times: MUL_PROC()` (R202). -/
def repeatMul : Nat → State → Option State
  | 0, s => some s
  | count + 1, s =>
    match mulProc s with
    | some t => repeatMul count t
    | Option.none => Option.none

/-- The number of squarings RUN performs: `Q - 2` for 0, else the argument (R202). -/
def runCount (s : State) (iterations : Nat) : Nat := if iterations = 0 then s.q.toNat - 2 else iterations

/-- The command ends in the state it computed, or the model stops because a carry loop has no end. -/
def finishState (o : Option State) : Outcome :=
  match o with
  | some t => .next t
  | Option.none => .fault .carryDiverges

/-- MUL (R195). -/
def execMul (s : State) : Outcome := needInit (encode .mul) s <| finishState (mulProc s)

/-- SEED (R200). -/
def execSeed (s : State) : Outcome := needInit (encode .seed) s <| .next (seedProc s)

/-- RUN (R202). -/
def execRun (ra : SReg) (s : State) : Outcome :=
  needInit (encode (.run ra)) s <|
  finishState (repeatMul (runCount s (s.readS ra).toNat) (seedProc s))

/-- The packing loop of RESIDUE (R207): limb i ORed in at bit position j = addr(i), while j is below XLEN = 64. -/
def packLimbs : List Word → List Digit → Nat → Word → Word
  | x :: xs, d :: ds, j, r => if j < Config.XLEN then packLimbs xs ds (j + d.toNat) (r ||| (x <<< j)) else r
  | _, _, _, r => r

/-- Every limb is exactly zero (R207). -/
def allZero (x : List Word) : Bool := x.all (fun a => a == 0#Config.XLEN)

/-- The value RESIDUE reports: the packed word; 0 when it is 0 and every limb is; else RESIDUE_ALIAS (R207). -/
def residueValue (m : Memory) : Word :=
  let r := packLimbs m.x m.dw 0 0#Config.XLEN
  if r ≠ 0#Config.XLEN then r else if allZero m.x then 0#Config.XLEN else Config.residueAlias

/-- The flag Z that RESIDUE writes: the packed word is 0 and every limb is (R207). -/
def residueFlag (m : Memory) : Bool := decide (packLimbs m.x m.dw 0 0#Config.XLEN = 0#Config.XLEN) && allZero m.x

/-- RESIDUE (R207): `S[rd]`, RESID and Z; X is not changed. -/
def execResidue (rd : SReg) (s : State) : Outcome :=
  needInit (encode (.residue rd)) s <|
  .next (((s.writeS rd (residueValue s.mem)).setResid (residueValue s.mem)).setZ (residueFlag s.mem))

end Sys2Proof.Machine
end

