-- ==== Sys2Proof/Machine/Init.lean ====
section
/-! DEFINITION. The table builder (R150 to R158) and the commands INIT and AUTOINIT (43_table_builder_init.md). -/

namespace Sys2Proof.Machine

/-- `addr(i) = ceil(q i / n)` as R154 computes it: the quotient, plus one when there is a remainder. -/
def limbAddr (q n i : Nat) : Nat := q * i / n + (if q * i % n ≠ 0 then 1 else 0)

/-- The three 32-bit checks of R154: the quotient, the remainder, the rounded-up address (R155). -/
def addrFits (q n i : Nat) : Bool :=
  decide (q * i / n < 2 ^ Config.ADDR_BITS) && decide (q * i % n < 2 ^ Config.ADDR_BITS) &&
  decide (limbAddr q n i < 2 ^ Config.ADDR_BITS)

/-- The width of limb i, `addr(i + 1) - addr(i)` (R156). -/
def limbWidth (q n i : Nat) : Nat := limbAddr q n (i + 1) - limbAddr q n i

/-- The sanity check of R156: limb i is `width` or `width + 1` bits wide. -/
def widthOk (q n width i : Nat) : Bool :=
  decide (limbAddr q n (i + 1) = limbAddr q n i + width) || decide (limbAddr q n (i + 1) = limbAddr q n i + (width + 1))

/-- Every check the builder's loop makes (R154, R156).  The loop writes tables between its checks, but a failure hides
every table (R157, R161), so the checks stand together here (assumption 19). -/
def builderChecks (q n width : Nat) : Bool :=
  (List.range (n + 1)).all (addrFits q n) && (List.range n).all (widthOk q n width)

/-- The digit-width table (R156). -/
def digitTable (q n : Nat) : List Digit := (List.range n).map (fun i => BitVec.ofNat Config.DWBITS (limbWidth q n i))

/-- `root2 = fpow(G, ROOT2_MUL (P - 1)/(ROOT2_DIV n))` (R152). -/
def rootTwo (n : Nat) : Nat := fpow Config.G (Config.ROOT2_MUL * (Config.P - 1) / (Config.ROOT2_DIV * n))

/-- `W[0] = 1`, `W[i] = fpow(root2, n - (q i mod n))` (R157). -/
def weightAt (root2 q n i : Nat) : Nat := if i = 0 then 1 else fpow root2 (n - q * i % n)

/-- `U[0] = finv(n)`, `U[i] = finv(fmul(W[i], n))` (R157). -/
def unweightAt (root2 q n i : Nat) : Nat := if i = 0 then finv n else finv (fmul (weightAt root2 q n i) n)

/-- The weight table (R157). -/
def weightTable (root2 q n : Nat) : List Word := (List.range n).map (fun i => wordOf (weightAt root2 q n i))

/-- The unweight table (R157). -/
def unweightTable (root2 q n : Nat) : List Word := (List.range n).map (fun i => wordOf (unweightAt root2 q n i))

/-- X right after a successful INIT: every cell is an unspecified field element (R49, U2; assumption 3). -/
def unwrittenX (k n : Nat) : List Word :=
  (List.range n).map (fun i => wordOf ((Config.unwrittenLimb k i).toNat % Config.P))

/-- The guard of R151 rejects the pair. -/
def guardRejects (logn q : Nat) : Bool := decide (Config.GUARD ≤ 2 * (q / 2 ^ logn) + logn)

/-- How INIT_PROC ends (R160). -/
inductive InitEnd where
  | success | failed | fatal
  deriving DecidableEq, Repr

/-- The writes at the start of INIT_PROC (R160): the flags and the registers of the attempt; the old memories go. -/
def initStart (logn q : Nat) (s : State) : State :=
  { (((s.setInitok false).setFail false).setZ false) with
    strat := .none
    icnt := 0#Config.XLEN
    resid := 0#Config.XLEN
    q := wordOf q
    logn := BitVec.ofNat 5 logn
    width := wordOf (q / 2 ^ logn)
    mem := Memory.empty }

/-- The writes at the end of a successful INIT_PROC (R160): the tables, X with unspecified cells, the strategy, INITOK. -/
def initDone (logn q root2 : Nat) (s : State) : State :=
  let n := 2 ^ logn
  { (s.setInitok true) with
    strat := selectStrategy logn
    mem := { x := unwrittenX s.freeCount n, w := weightTable root2 q n, u := unweightTable root2 q n, dw := digitTable q n }
    freeCount := s.freeCount + 1 }

/-- INIT_PROC(log_n, q) (R160, with R150 to R158 and R161). -/
def initProc (cmdw : Command) (logn q : Nat) (s : State) : InitEnd × State :=
  let n := 2 ^ logn
  let s1 := initStart logn q s
  if guardRejects logn q then (.failed, s1.setFail true)
  else
    let root2 := rootTwo n
    let s2 : State := { s1 with root2 := wordOf root2 }
    if fpow root2 n ≠ 2 then (.fatal, fatalHalt .fatalRoot2 cmdw (wordOf root2) s2)
    else if builderChecks q n (q / n) then (.success, initDone logn q root2 s2)
    else (.failed, s2.setFail true)

/-- INIT (R160): BAD_ARG for log_n, then for q (R162), then INIT_PROC. -/
def execInit (ra rb : SReg) (s : State) : Outcome :=
  let cmdw := encode (.init ra rb)
  let logn := (s.readS ra).toNat
  let q := (s.readS rb).toNat
  needArg (decide (logn ≤ Config.MAX_LOG_N)) cmdw (s.readS ra) s <|
  needArg (decide (2 ≤ q)) cmdw (s.readS rb) s <|
  .next (initProc cmdw logn q s).2

/-- The retry loop of AUTOINIT over the sizes still to try (R165): the first success or fatal violation ends it, and
exhaustion is fatal. -/
def autoInit (cmdw : Command) (q : Nat) : List Nat → State → State
  | [], s => fatalHalt .fatalExhausted cmdw (wordOf q) s
  | logn :: rest, s =>
    match initProc cmdw logn q s with
    | (.success, t) => t
    | (.fatal, t) => t
    | (.failed, t) => autoInit cmdw q rest t

/-- AUTOINIT (R165): tries log_n = 0 to 26 in increasing order. -/
def execAutoinit (ra : SReg) (s : State) : Outcome :=
  let cmdw := encode (.autoinit ra)
  let q := (s.readS ra).toNat
  needArg (decide (2 ≤ q)) cmdw (s.readS ra) s <|
  .next (autoInit cmdw q (List.range (Config.MAX_LOG_N + 1)) s)

end Sys2Proof.Machine
end

