-- ==== Sys2Proof/Machine/Kernel.lean ====
section
/-! DEFINITION. The seven commands of the modular kernel on scalar registers (40_modular_kernel.md, R107 to R114). -/

namespace Sys2Proof.Machine

/-- FADD (R108): the sum of two field elements. -/
def execFadd (rd ra rb : SReg) (s : State) : Outcome :=
  let cmdw := encode (.fadd rd ra rb)
  needField cmdw (s.readS ra) s <|
  needField cmdw (s.readS rb) s <|
  .next (s.writeS rd (wordOf (fadd (s.readS ra).toNat (s.readS rb).toNat)))

/-- FSUB (R109): the difference of two field elements. -/
def execFsub (rd ra rb : SReg) (s : State) : Outcome :=
  let cmdw := encode (.fsub rd ra rb)
  needField cmdw (s.readS ra) s <|
  needField cmdw (s.readS rb) s <|
  .next (s.writeS rd (wordOf (fsub (s.readS ra).toNat (s.readS rb).toNat)))

/-- FMUL (R110): the product of two field elements. -/
def execFmul (rd ra rb : SReg) (s : State) : Outcome :=
  let cmdw := encode (.fmul rd ra rb)
  needField cmdw (s.readS ra) s <|
  needField cmdw (s.readS rb) s <|
  .next (s.writeS rd (wordOf (fmul (s.readS ra).toNat (s.readS rb).toNat)))

/-- FSQR (R111): the square of a field element. -/
def execFsqr (rd ra : SReg) (s : State) : Outcome :=
  let cmdw := encode (.fsqr rd ra)
  needField cmdw (s.readS ra) s <|
  .next (s.writeS rd (wordOf (fsqr (s.readS ra).toNat)))

/-- FRED (R112): `S[ra]` is the low and `S[rb]` the high half of the 128-bit integer reduced; neither is checked. -/
def execFred (rd ra rb : SReg) (s : State) : Outcome :=
  .next (s.writeS rd (wordOf (fred (s.readS rb).toNat (s.readS ra).toNat)))

/-- FPOW (R113): the base is checked, the exponent is a plain integer. -/
def execFpow (rd ra rb : SReg) (s : State) : Outcome :=
  let cmdw := encode (.fpow rd ra rb)
  needField cmdw (s.readS ra) s <|
  .next (s.writeS rd (wordOf (fpow (s.readS ra).toNat (s.readS rb).toNat)))

/-- FINV (R114): NONCANON, then INV_ZERO, then the inverse. -/
def execFinv (rd ra : SReg) (s : State) : Outcome :=
  let cmdw := encode (.finv rd ra)
  needField cmdw (s.readS ra) s <|
  if s.readS ra = 0#Config.XLEN then faultOut .invZero cmdw 0#Config.XLEN s
  else .next (s.writeS rd (wordOf (finv (s.readS ra).toNat)))

end Sys2Proof.Machine
end

