-- ==== Sys2Proof/Machine/Dispatch.lean ====
section
/-! DEFINITION. The dispatch: one arm per command of R85, each one call of its meaning. -/

namespace Sys2Proof.Machine

/-- The effect of a decoded command on an engine that is not halted (R91 step 3 on; the sequencer makes steps 1 and 2). -/
def exec (i : Instr) (s : State) : Host.Outcome State Fault Refusal :=
  match i with
  | .nop => Sys2Proof.Machine.execNop s
  | .sreset => Sys2Proof.Machine.execSreset s
  | .ldi rd imm16 => Sys2Proof.Machine.execLdi rd imm16 s
  | .rdcr rd imm12 => Sys2Proof.Machine.execRdcr rd imm12 s
  | .mov rd ra => Sys2Proof.Machine.execMov rd ra s
  | .fadd rd ra rb => Sys2Proof.Machine.execFadd rd ra rb s
  | .fsub rd ra rb => Sys2Proof.Machine.execFsub rd ra rb s
  | .fmul rd ra rb => Sys2Proof.Machine.execFmul rd ra rb s
  | .fsqr rd ra => Sys2Proof.Machine.execFsqr rd ra s
  | .fred rd ra rb => Sys2Proof.Machine.execFred rd ra rb s
  | .fpow rd ra rb => Sys2Proof.Machine.execFpow rd ra rb s
  | .finv rd ra => Sys2Proof.Machine.execFinv rd ra s
  | .vmulw => Sys2Proof.Machine.execVmulw s
  | .vmulu => Sys2Proof.Machine.execVmulu s
  | .vsqr => Sys2Proof.Machine.execVsqr s
  | .nttf => Sys2Proof.Machine.execNttf s
  | .ntti => Sys2Proof.Machine.execNtti s
  | .init ra rb => Sys2Proof.Machine.execInit ra rb s
  | .autoinit ra => Sys2Proof.Machine.execAutoinit ra s
  | .carry => Sys2Proof.Machine.execCarry s
  | .add32 ra rb => Sys2Proof.Machine.execAdd32 ra rb s
  | .add64 ra rb => Sys2Proof.Machine.execAdd64 ra rb s
  | .sub32 ra rb => Sys2Proof.Machine.execSub32 ra rb s
  | .mul => Sys2Proof.Machine.execMul s
  | .seed => Sys2Proof.Machine.execSeed s
  | .run ra => Sys2Proof.Machine.execRun ra s
  | .residue rd => Sys2Proof.Machine.execResidue rd s
  | .ldx rd ra imm12 => Sys2Proof.Machine.execLdx rd ra imm12 s
  | .stx ra rb imm12 => Sys2Proof.Machine.execStx ra rb imm12 s
  | .ldw rd ra imm12 => Sys2Proof.Machine.execLdw rd ra imm12 s
  | .ldu rd ra imm12 => Sys2Proof.Machine.execLdu rd ra imm12 s
  | .ldd rd ra imm12 => Sys2Proof.Machine.execLdd rd ra imm12 s

end Sys2Proof.Machine
end

