-- ==== Sys2Proof/Machine/Sequencer.lean ====
section
/-! DEFINITION. The sequencer and the host interface (20_memory.md R62 to R68): how a transaction of the host acts on the
engine, and how a command word written to CMD is issued (R64, R91, R248). -/

namespace Sys2Proof.Machine

/-- The SRESET word, the only one a halted engine executes (R229, R252). -/
def sresetWord : Command := 0x01000000

/-- The low 32 bits of a value written to CMD: the command word (R63, R64). -/
def commandWord (v : Word) : Command := v.extractLsb' 0 Config.CMDLEN

/-- Bits 63:32 of a value written to CMD are zero (R64). -/
def upperZero (v : Word) : Bool := decide (v.toNat < 2 ^ Config.CMDLEN)

/-- A write of `v` to CMD (R64), in the order of R248: while FATAL = 1 the word is ignored unless it is SRESET (R252); a
word that is no command, or nonzero bits 63:32, is ILLEGAL_CMD with the whole value in FINFO (R242); else the command
executes. -/
def issue (v : Word) (s : State) : Outcome :=
  if s.status.fatal && commandWord v != sresetWord then .next s
  else if upperZero v then
    match decode (commandWord v) with
    | .ok i => exec i s
    | .error _ => faultOut .illegalCmd (commandWord v) v s
  else faultOut .illegalCmd (commandWord v) v s

/-- Which register of the host register map an offset names (R63). -/
inductive HostRegister where
  | cmd
  | control (k : Nat)
  | scalar (k : SReg)
  | unmapped
  deriving DecidableEq, Repr

/-- The host register map (R63): CMD at 0x000, control register k at 0x040 + 8k for k ≤ 12, S k at 0x100 + 8k. -/
def hostRegister (offset : Nat) : HostRegister :=
  if offset = 0 then .cmd
  else if 0x040 ≤ offset ∧ offset ≤ 0x040 + 8 * 12 then .control ((offset - 0x040) / 8)
  else if 0x100 ≤ offset ∧ offset ≤ 0x100 + 8 * (Config.NSREG - 1) then .scalar (Fin.ofNat Config.NSREG ((offset - 0x100) / 8))
  else .unmapped

/-- What `HostRead(offset)` returns (R63, R65): 0 for CMD and for an unmapped offset. -/
def hostReadValue (offset : Nat) (s : State) : Word :=
  match hostRegister offset with
  | .cmd => 0#Config.XLEN
  | .control k => (controlRegister s k).getD 0#Config.XLEN
  | .scalar k => s.readS k
  | .unmapped => 0#Config.XLEN

/-- `HostWrite(offset, v)` (R63 to R65): a command, a scalar register, or no effect. -/
def hostWrite (offset : Nat) (v : Word) (s : State) : Outcome :=
  match hostRegister offset with
  | .cmd => issue v s
  | .control _ => .next s
  | .scalar k => .next (s.writeS k v)
  | .unmapped => .next s

/-- One host move on an engine that is not busy (R62).  A misaligned or narrow access is not accepted and changes nothing
(R68, U13; assumption 8). -/
def serveIdle (m : HostMove) (s : State) : Outcome :=
  match m with
  | .write offset v => if offset % 8 = 0 then hostWrite offset v s else .next s
  | .read offset => if offset % 8 = 0 then .next { s with reply := some (hostReadValue offset s) } else .next s
  | .reset => .next (hardReset s)
  | .narrow _ _ => .next s

/-- One host move on a busy engine (R66, R270): a read of STATUS and a hardware reset are served, nothing else has a
move (U14). -/
def serveBusy (m : HostMove) (s : State) : Outcome :=
  match m with
  | .read offset => if offset = 0x040 then serveIdle m s else .refused .hostWhileBusy
  | .reset => serveIdle m s
  | .write _ _ => .refused .hostWhileBusy
  | .narrow _ _ => .refused .hostWhileBusy

/-- One host move. -/
def serve (m : HostMove) (s : State) : Outcome :=
  if s.status.busy then serveBusy m s else serveIdle m s

/-- The next host transaction is taken from the inbox and served; with none the engine waits (R48, R80, R260). -/
def advance (s : State) : Outcome :=
  match s.inbox with
  | [] => .next s
  | m :: rest => serve m { s with inbox := rest }

/-- The transaction that presents an opcode-table word of `nbits` bits as a command: a write to CMD whose other bits are
zero (R64). -/
def commandMove (nbits w : Nat) : HostMove := .write 0 (wordOf (w % 2 ^ nbits % 2 ^ Config.CMDLEN))

end Sys2Proof.Machine
end

