-- ==== Sys2Proof/Machine/Step.lean ====
section
/-! DEFINITION. The step: the engine serves the host's next transaction (R62, R80). -/

namespace Sys2Proof.Machine

/-- One step: serve the next host transaction; a command runs to completion in it (R18). -/
def step (s : State) : Host.Outcome State Fault Refusal := advance s

/-- The state whose very next step runs the command word `w`: the host's next transaction writes it to CMD. -/
def State.withFetchWord (s : State) (nbits w : Nat) : State := { s with inbox := commandMove nbits w :: s.inbox }

end Sys2Proof.Machine
end

