-- ==== Sys2Proof/Safety.lean ====
section
/-! DEFINITION. The terms in which claims speak: the canonical form of the memories, the integer a limb array stands for,
the valid state, the invariant of the machine (R28, R29, R40, R47, R48, R252), and a run that goes on. -/

namespace Sys2Proof.Machine

/-- Every cell of a 64-bit memory is a field element (R40 to R42). -/
def canonicalCells (l : List Word) : Bool := l.all (fun v => isField v.toNat)

/-- The canonical form of the memories: the four have the same number of cells (R20, R120), the cells of X, W and U are
field elements (R40 to R42), and a digit width is at most 31 (R43).  A list of cells by position names every address once,
in rising order. -/
def Memory.wf (m : Memory) : Bool :=
  decide (m.w.length = m.x.length) && decide (m.u.length = m.x.length) && decide (m.dw.length = m.x.length) &&
  canonicalCells m.x && canonicalCells m.w && canonicalCells m.u && m.dw.all (fun d => decide (d.toNat ≤ 31))

/-- `value(X) = Σ X[i] * 2^addr(i)` with `addr(i) = DW[0] + ... + DW[i-1]` (R19, R180). -/
def limbValue : List Word → List Digit → Nat
  | x :: xs, d :: ds => x.toNat + 2 ^ d.toNat * limbValue xs ds
  | _, _ => 0

/-- `addr(i) = DW[0] + ... + DW[i-1]` (R180). -/
def bitAddress (dw : List Digit) (i : Nat) : Nat := ((dw.take i).map BitVec.toNat).sum

/-- A valid state: as many limbs as digit widths, and every limb below its width bound (R19, R40, R180). -/
def validLimbs : List Word → List Digit → Bool
  | [], [] => true
  | x :: xs, d :: ds => decide (x.toNat < 2 ^ d.toNat) && validLimbs xs ds
  | _, _ => false

/-- What a successful INIT establishes and nothing but a new INIT, AUTOINIT or a reset changes (R44, R47): the registers
and tables belong to (Q, LOGN), X has n cells, and each is a field element. -/
structure EngineTables (s : State) : Prop where
  logn_le : s.logn.toNat ≤ Config.MAX_LOG_N
  two_le_q : 2 ≤ s.q.toNat
  guard_passes : guardRejects s.logn.toNat s.q.toNat = false
  width_eq : s.width = wordOf (s.q.toNat / s.n)
  root2_eq : s.root2 = wordOf (rootTwo s.n)
  strat_eq : s.strat = selectStrategy s.logn.toNat
  w_eq : s.mem.w = weightTable (rootTwo s.n) s.q.toNat s.n
  u_eq : s.mem.u = unweightTable (rootTwo s.n) s.q.toNat s.n
  dw_eq : s.mem.dw = digitTable s.q.toNat s.n
  x_length : s.mem.x.length = s.n
  x_canonical : canonicalCells s.mem.x = true

/-- The invariant of the machine between two steps. -/
structure MachineInv (s : State) : Prop where
  /-- No command is executing (R18, R28). -/
  idle : s.status.busy = false
  /-- LOGN is at most 26 (R31). -/
  logn_le : s.logn.toNat ≤ Config.MAX_LOG_N
  /-- An initialised engine holds the tables of (Q, LOGN) (R47). -/
  tables : s.status.initok = true → EngineTables s
  /-- Without initialisation no memory exists and no strategy is selected (R35, R48). -/
  no_tables : s.status.initok = false → s.mem = Memory.empty ∧ s.strat = .none
  /-- A halted engine is not initialised and reports nothing (R245, R252). -/
  halted : s.status.fatal = true → s.status.initok = false ∧ s.status.z = false ∧ s.resid = 0#Config.XLEN
  /-- FAIL and INITOK exclude each other (R28, R161). -/
  fail_init : s.status.fail = true → s.status.initok = false
  /-- FAULT and FINFO are 0 while nothing is recorded (R29, R242). -/
  no_record : s.status.err = false → s.status.fatal = false → s.fault = 0#Config.XLEN ∧ s.finfo = 0#Config.XLEN
  /-- FAULT bits 31:8 are zero (R29). -/
  fault_reserved : s.fault.extractLsb' 8 24 = 0#24

/-- The engine is initialised and not halted: the commands on X run (R91). -/
def Ready (s : State) : Prop := MachineInv s ∧ s.status.initok = true

/-- The scalar register that a command writes, for the fifteen commands that write one (R24). -/
def destination : Instr → Option SReg
  | .ldi rd _ => some rd
  | .rdcr rd _ => some rd
  | .mov rd _ => some rd
  | .fadd rd _ _ => some rd
  | .fsub rd _ _ => some rd
  | .fmul rd _ _ => some rd
  | .fsqr rd _ => some rd
  | .fred rd _ _ => some rd
  | .fpow rd _ _ => some rd
  | .finv rd _ => some rd
  | .residue rd => some rd
  | .ldx rd _ _ => some rd
  | .ldw rd _ _ => some rd
  | .ldu rd _ _ => some rd
  | .ldd rd _ _ => some rd
  | .nop | .sreset | .vmulw | .vmulu | .vsqr | .nttf | .ntti | .init _ _ | .autoinit _ | .carry | .add32 _ _
  | .add64 _ _ | .sub32 _ _ | .mul | .seed | .run _ | .stx _ _ _ => Option.none

/-- The command needs an initialised engine (R91). -/
def needsInit : Instr → Bool
  | .vmulw | .vmulu | .vsqr | .nttf | .ntti | .carry | .add32 _ _ | .add64 _ _ | .sub32 _ _ | .mul | .seed | .run _
  | .residue _ | .ldx _ _ _ | .stx _ _ _ | .ldw _ _ _ | .ldu _ _ _ | .ldd _ _ _ => true
  | .nop | .sreset | .ldi _ _ | .rdcr _ _ | .mov _ _ | .fadd _ _ _ | .fsub _ _ _ | .fmul _ _ _ | .fsqr _ _
  | .fred _ _ _ | .fpow _ _ _ | .finv _ _ | .init _ _ | .autoinit _ => false

/-- The Lucas-Lehmer sequence `s_0 = 4`, `s_{k+1} = s_k^2 - 2`, over the integers (R19). -/
def lucasLehmer : Nat → Int
  | 0 => 4
  | k + 1 => lucasLehmer k ^ 2 - 2

/-- A step that goes on: neither the model's fault nor a refusal. -/
def Continues (o : Outcome) : Prop := ∃ t, o = .next t

/-- The state of a fault raised by a command that has written nothing (R243): the first fault is recorded, a later one
leaves the state as it is. -/
def faultState (code : FaultCode) (cmdw : Command) (info : Word) (s : State) : State :=
  if s.status.err = true ∨ s.status.fatal = true then s
  else
    { s with
      status := { s.status with err := true }
      fault := wordOf (cmdw.toNat * 2 ^ 32 + (faultCode code).toNat)
      finfo := info }

/-- `t` is `s` with scalar register `rd` holding `v`: every other scalar register, every control register, flag and memory
cell is unchanged (R22, R24). -/
def OnlyScalar (rd : SReg) (v : Word) (s t : State) : Prop :=
  t.readS rd = v ∧ (∀ r, r ≠ rd → t.readS r = s.readS r) ∧ t = { s with scalars := t.scalars }

/-- `t` is `s` but for the cells of X, of which there are as many as before: every scalar register, control register and
flag, and every cell of W, U and DW, is unchanged. -/
def OnlyX (s t : State) : Prop :=
  t = { s with mem := { s.mem with x := t.mem.x } } ∧ t.mem.x.length = s.mem.x.length

/-- The outcome of running commands one after the other, each on the state the one before left. -/
def execAll : List Instr → State → Outcome
  | [], s => .next s
  | i :: rest, s =>
    match exec i s with
    | .next t => execAll rest t
    | .fault r => .fault r
    | .refused r => .refused r

end Sys2Proof.Machine
end

