-- ==== Sys2Proof/Certificates/Slice0/Obligations.lean ====
section
/-! DEFINITION. The statements for the provers. -/

open Sys2Proof Sys2Proof.Machine

/-! ### Encoding -/

/-- O1.  Decoding the word of a well-formed command gives the command back, for every command and every operand (R81, R82,
R85, R89). -/
def Obligations.DecodeOfEncode : Prop :=
  ∀ i : Instr, i.wellFormed = true → decode (encode i) = .ok i

/-- O2.  A word that decodes to a command is the word of that command, and of no other (R87): no bit of a word is ignored. -/
def Obligations.EncodeOfDecode : Prop :=
  ∀ (w : Command) (i : Instr), decode w = .ok i → encode i = w ∧ i.wellFormed = true

/-- O3.  A word is a command exactly when its bits under the mask of a row of the opcode map are the row's match value
(R82, R85, R87), and no word matches two rows. -/
def Obligations.WordIsCommandIffRowMatches : Prop :=
  ∀ w : Command,
    ((∃ i, decode w = .ok i) ↔ ∃ r ∈ opcodeMap, w &&& r.2.mask = rowMatch r) ∧
    ∀ r ∈ opcodeMap, ∀ r' ∈ opcodeMap, w &&& r.2.mask = rowMatch r → w &&& r'.2.mask = rowMatch r' → r = r'

/-- O4.  The example words of R89 and of V-D-9 decode to the commands the spec writes beside them, and four words of
section 2.11 are illegal. -/
def Obligations.SpecExampleWordsDecode : Prop :=
  decode 0x54000000#32 = .ok .mul ∧
  decode 0x57300000#32 = .ok (.residue 3) ∧
  decode 0x56010000#32 = .ok (.run 1) ∧
  decode 0x40001000#32 = .ok (.init 0 1) ∧
  decode 0x16210000#32 = .ok (.finv 2 1) ∧
  decode 0x12201000#32 = .ok (.fmul 2 0 1) ∧
  decode 0x0200007F#32 = .ok (.ldi 0 127) ∧
  decode 0x03400009#32 = .ok (.rdcr 4 9) ∧
  decode 0x60540003#32 = .ok (.ldx 5 4 3) ∧
  decode 0x61045003#32 = .ok (.stx 4 5 3) ∧
  decode 0x04210000#32 = .ok (.mov 2 1) ∧
  decode 0x51064000#32 = .ok (.add32 6 4) ∧
  decode 0x30000000#32 = .ok .nttf ∧
  decode 0x20000000#32 = .ok .vmulw ∧
  decode 0x05000000#32 = .error (.unknownOpcode 0x05#8) ∧
  decode 0x54000001#32 = .error (.mustBeZero .z) ∧
  decode 0x00100000#32 = .error (.mustBeZero .z) ∧
  decode 0xFFFFFFFF#32 = .error (.unknownOpcode 0xFF#8)

/-! ### The sequencer, the host interface and reset -/

/-- O5.  A step runs the decoded command: when the host's next transaction writes a word to CMD, bits 63:32 zero, and the
engine is neither busy nor halted, the step is `exec` of the decoded command on the state without that transaction
(R64, R80, R91).  That a step is one host transaction is the model's choice (assumption 6). -/
def Obligations.StepRunsDecodedCommand : Prop :=
  ∀ (s : State) (v : Word) (rest : List HostMove) (i : Instr),
    s.status.busy = false → s.status.fatal = false → s.inbox = .write 0x000 v :: rest → v.toNat < 2 ^ 32 →
    decode (v.extractLsb' 0 32) = .ok i →
    step s = exec i { s with inbox := rest }

/-- O6.  An illegal word, or a CMD write with a bit of 63:32 set, raises ILLEGAL_CMD with the whole written value in FINFO
and changes nothing else (R64, R87, R242, R243).  A step is one host transaction by the model's choice (assumption 6). -/
def Obligations.IllegalWordFaults : Prop :=
  ∀ (s : State) (v : Word) (rest : List HostMove),
    s.status.busy = false → s.status.fatal = false → s.inbox = .write 0x000 v :: rest →
    (2 ^ 32 ≤ v.toNat ∨ ∃ e, decode (v.extractLsb' 0 32) = .error e) →
    step s = .next (faultState .illegalCmd (v.extractLsb' 0 32) v { s with inbox := rest })

/-- O7.  The halted engine (R252): every value written to CMD whose low word is not SRESET is ignored, SRESET gives the
state of R48 with S0 to S15 kept, and host writes and reads of a scalar register still work.  The model's own fields and
its step per transaction are choices of the model (assumptions 6, 14 and 17). -/
def Obligations.HaltedEngineIgnoresAllButSreset : Prop :=
  ∀ (s : State) (rest : List HostMove), s.status.busy = false → s.status.fatal = true →
    (∀ v : Word, s.inbox = .write 0x000 v :: rest → v.extractLsb' 0 32 ≠ 0x01000000#32 →
      step s = .next { s with inbox := rest }) ∧
    (s.inbox = .write 0x000 0x01000000#64 :: rest →
      step s = .next { State.reset with
        scalars := s.scalars, freeCount := s.freeCount, inbox := rest, reply := s.reply }) ∧
    (∀ (k : SReg) (v : Word), s.inbox = .write (0x100 + 8 * k.val) v :: rest →
      ∃ t, step s = .next t ∧ OnlyScalar k v { s with inbox := rest } t) ∧
    (∀ k : SReg, s.inbox = .read (0x100 + 8 * k.val) :: rest →
      step s = .next { s with inbox := rest, reply := some (s.readS k) })

/-- O8.  The host register map (R63, R65, R68): scalar registers are written and read, control registers are read and
their writes ignored, CMD reads 0, unmapped offsets read 0 and ignore writes, misaligned and narrow accesses change
nothing.  The field that holds the data read, and that an access that is not accepted is taken from the host's list, are
the model's choice (assumptions 6 and 8). -/
def Obligations.HostRegisterMap : Prop :=
  ∀ (s : State) (rest : List HostMove), s.status.busy = false →
    (∀ (k : SReg) (v : Word), s.inbox = .write (0x100 + 8 * k.val) v :: rest →
      ∃ t, step s = .next t ∧ OnlyScalar k v { s with inbox := rest } t) ∧
    (∀ k : SReg, s.inbox = .read (0x100 + 8 * k.val) :: rest →
      step s = .next { s with inbox := rest, reply := some (s.readS k) }) ∧
    (∀ k v, k ≤ 12 → s.inbox = .write (0x040 + 8 * k) v :: rest → step s = .next { s with inbox := rest }) ∧
    (∀ k v, controlRegister s k = some v → s.inbox = .read (0x040 + 8 * k) :: rest →
      step s = .next { s with inbox := rest, reply := some v }) ∧
    (s.inbox = .read 0x000 :: rest → step s = .next { s with inbox := rest, reply := some 0#64 }) ∧
    (∀ offset, offset % 8 = 0 →
      (0x008 ≤ offset ∧ offset ≤ 0x038 ∨ 0x0A8 ≤ offset ∧ offset ≤ 0x0F8 ∨ 0x180 ≤ offset) →
      (s.inbox = .read offset :: rest → step s = .next { s with inbox := rest, reply := some 0#64 }) ∧
      (∀ v, s.inbox = .write offset v :: rest → step s = .next { s with inbox := rest })) ∧
    (∀ offset, offset % 8 ≠ 0 →
      (s.inbox = .read offset :: rest → step s = .next { s with inbox := rest }) ∧
      (∀ v, s.inbox = .write offset v :: rest → step s = .next { s with inbox := rest })) ∧
    (∀ offset bytes, s.inbox = .narrow offset bytes :: rest → step s = .next { s with inbox := rest })

/-- O9.  Hardware reset (R48, R270), also while a command is executing: every control register and flag is 0, no memory
exists; nothing is said of S0 to S15, which R25 leaves unspecified.  Serving the reset while BUSY = 1 is the model's
reading of R66 and R270 (assumption 22); that the reset is served in one step, that it is then taken from the host's
list and that the data of the last read stays are the model's choice (assumption 6). -/
def Obligations.HardwareResetValues : Prop :=
  ∀ (s : State) (rest : List HostMove), s.inbox = .reset :: rest →
    ∃ t, step s = .next t ∧
      t.status = { busy := false, initok := false, fail := false, err := false, fatal := false, z := false } ∧
      t.fault = 0#64 ∧ t.finfo = 0#64 ∧ t.q = 0#64 ∧ t.logn = 0#5 ∧ t.width = 0#64 ∧ t.root2 = 0#64 ∧
      t.strat = .none ∧ t.icnt = 0#64 ∧ t.resid = 0#64 ∧ t.mem = { x := [], w := [], u := [], dw := [] } ∧
      t.inbox = rest ∧ t.reply = s.reply

/-- O10.  The state right after reset has every control register at the value R48 states: what RDCR would read of each. -/
def Obligations.ResetControlRegisters : Prop :=
  (∀ k, k ≤ 10 → controlRegister State.reset k = some 0#64) ∧
  controlRegister State.reset 11 = some 0xFFFFFFFF00000001#64 ∧
  controlRegister State.reset 12 = some 0x01103D1A#64 ∧
  State.reset.mem = { x := [], w := [], u := [], dw := [] }

/-- O11.  SRESET completes from every state and gives the reset values, S0 to S15 kept (R229, R48). -/
def Obligations.SresetKeepsScalars : Prop :=
  ∀ s : State, ∃ t, exec .sreset s = .next t ∧ t.scalars = s.scalars ∧
    t.status = { busy := false, initok := false, fail := false, err := false, fatal := false, z := false } ∧
    t.fault = 0#64 ∧ t.finfo = 0#64 ∧ t.q = 0#64 ∧ t.logn = 0#5 ∧ t.width = 0#64 ∧ t.root2 = 0#64 ∧
    t.strat = .none ∧ t.icnt = 0#64 ∧ t.resid = 0#64 ∧ t.mem = { x := [], w := [], u := [], dw := [] }

/-! ### The record of faults, and what only some commands may write -/

/-- O12.  What is recorded first stays (R29, R243 b, R249, R252): from a state with ERR or FATAL set, no step but an
SRESET or a hardware reset changes FAULT or FINFO, and neither flag is cleared.  The list of transactions is the model's
choice (assumption 6); that a halted engine records nothing of a CMD value with bits 63:32 set is its reading of R252
(assumption 14). -/
def Obligations.FirstFaultStaysRecorded : Prop :=
  ∀ (s t : State), s.status.err = true ∨ s.status.fatal = true →
    s.inbox.head? ≠ some .reset → s.inbox.head? ≠ some (.write 0x000 0x01000000#64) →
    step s = .next t →
    t.fault = s.fault ∧ t.finfo = s.finfo ∧
    (s.status.err = true → t.status.err = true) ∧ (s.status.fatal = true → t.status.fatal = true)

/-- O13.  A command writes at most its one destination register among S0 to S15, and a command without one writes none
(R24, R84), whatever happens: also when it faults. -/
def Obligations.OnlyDestinationWritten : Prop :=
  ∀ (i : Instr) (s t : State) (r : SReg), exec i s = .next t → destination i ≠ some r → t.readS r = s.readS r

/-- O14.  No command but INIT, AUTOINIT and SRESET changes W, U, DW, ROOT2, WIDTH, STRAT, Q or LOGN (R44, R232), nor
INITOK, FAIL or FATAL (R28: their columns `set by` and `cleared by` name no other command). -/
def Obligations.TablesAreImmutable : Prop :=
  ∀ (i : Instr) (s t : State), exec i s = .next t →
    (∀ ra rb, i ≠ .init ra rb) → (∀ ra, i ≠ .autoinit ra) → i ≠ .sreset →
    t.mem.w = s.mem.w ∧ t.mem.u = s.mem.u ∧ t.mem.dw = s.mem.dw ∧ t.root2 = s.root2 ∧ t.width = s.width ∧
    t.strat = s.strat ∧ t.q = s.q ∧ t.logn = s.logn ∧ t.status.initok = s.status.initok ∧
    t.status.fail = s.status.fail ∧ t.status.fatal = s.status.fatal

/-- O15.  A command that needs an initialised engine raises NOT_INIT without one, before any other check, and writes
nothing (R91, R242, R243, R248). -/
def Obligations.UninitialisedCommandsFault : Prop :=
  ∀ (i : Instr) (s : State), needsInit i = true → s.status.initok = false →
    exec i s = .next (faultState .notInit (encode i) 0#64 s)

/-! ### Modular kernel -/

/-- O16.  FADD and FSUB complete on field elements with the sum and the difference mod P, and change only `S[rd]`
(R100, R101, R108, R109). -/
def Obligations.FieldAddSubtract : Prop :=
  ∀ (s : State) (rd ra rb : SReg), (s.readS ra).toNat < Config.P → (s.readS rb).toNat < Config.P →
    (∃ t, exec (.fadd rd ra rb) s = .next t ∧
      OnlyScalar rd (wordOf (((s.readS ra).toNat + (s.readS rb).toNat) % Config.P)) s t) ∧
    (∃ t, exec (.fsub rd ra rb) s = .next t ∧
      OnlyScalar rd (wordOf (((s.readS ra).toNat + Config.P - (s.readS rb).toNat) % Config.P)) s t)

/-- O17.  FMUL and FSQR complete on field elements with the product mod P of the double-width product, FRED completes on
every operand with the 128-bit integer mod P, and each changes only `S[rd]` (R102 to R104, R110 to R112). -/
def Obligations.FieldMultiplySquareReduce : Prop :=
  ∀ (s : State) (rd ra rb : SReg),
    ((s.readS ra).toNat < Config.P → (s.readS rb).toNat < Config.P →
      ∃ t, exec (.fmul rd ra rb) s = .next t ∧
        OnlyScalar rd (wordOf ((s.readS ra).toNat * (s.readS rb).toNat % Config.P)) s t) ∧
    ((s.readS ra).toNat < Config.P →
      ∃ t, exec (.fsqr rd ra) s = .next t ∧
        OnlyScalar rd (wordOf ((s.readS ra).toNat ^ 2 % Config.P)) s t) ∧
    (∃ t, exec (.fred rd ra rb) s = .next t ∧
      OnlyScalar rd (wordOf (((s.readS rb).toNat * 2 ^ 64 + (s.readS ra).toNat) % Config.P)) s t)

/-- O18.  FPOW completes on a canonical base and any 64-bit exponent with `x^e mod P`, 1 for the exponent 0, and changes
only `S[rd]` (R105, R113). -/
def Obligations.FieldPower : Prop :=
  ∀ (s : State) (rd ra rb : SReg), (s.readS ra).toNat < Config.P →
    ∃ t, exec (.fpow rd ra rb) s = .next t ∧
      OnlyScalar rd (wordOf ((s.readS ra).toNat ^ (s.readS rb).toNat % Config.P)) s t

/-- O19.  FINV completes on a field element other than 0 with its multiplicative inverse mod P, and changes only `S[rd]`
(R106, R114). -/
def Obligations.FieldInverse : Prop :=
  ∀ (s : State) (rd ra : SReg), (s.readS ra).toNat < Config.P → s.readS ra ≠ 0#64 →
    ∃ t v, exec (.finv rd ra) s = .next t ∧ OnlyScalar rd v s t ∧ v.toNat < Config.P ∧
      v.toNat * (s.readS ra).toNat % Config.P = 1

/-- O20.  An operand read as a field element that is not below P raises NONCANON with its value, `S[ra]` before `S[rb]`,
and FINV of 0 raises INV_ZERO; nothing else is written (R107, R114, R242, R248). -/
def Obligations.KernelOperandFaults : Prop :=
  ∀ (s : State) (rd ra rb : SReg),
    (Config.P ≤ (s.readS ra).toNat →
      exec (.fadd rd ra rb) s = .next (faultState .noncanon (encode (.fadd rd ra rb)) (s.readS ra) s) ∧
      exec (.fsub rd ra rb) s = .next (faultState .noncanon (encode (.fsub rd ra rb)) (s.readS ra) s) ∧
      exec (.fmul rd ra rb) s = .next (faultState .noncanon (encode (.fmul rd ra rb)) (s.readS ra) s) ∧
      exec (.fsqr rd ra) s = .next (faultState .noncanon (encode (.fsqr rd ra)) (s.readS ra) s) ∧
      exec (.fpow rd ra rb) s = .next (faultState .noncanon (encode (.fpow rd ra rb)) (s.readS ra) s) ∧
      exec (.finv rd ra) s = .next (faultState .noncanon (encode (.finv rd ra)) (s.readS ra) s)) ∧
    ((s.readS ra).toNat < Config.P → Config.P ≤ (s.readS rb).toNat →
      exec (.fadd rd ra rb) s = .next (faultState .noncanon (encode (.fadd rd ra rb)) (s.readS rb) s) ∧
      exec (.fsub rd ra rb) s = .next (faultState .noncanon (encode (.fsub rd ra rb)) (s.readS rb) s) ∧
      exec (.fmul rd ra rb) s = .next (faultState .noncanon (encode (.fmul rd ra rb)) (s.readS rb) s)) ∧
    (s.readS ra = 0#64 →
      exec (.finv rd ra) s = .next (faultState .invZero (encode (.finv rd ra)) 0#64 s))

/-! ### System commands and register moves -/

/-- O21.  NOP changes nothing, LDI loads its zero-extended immediate, MOV copies a register unchecked; each completes from
every state (R223, R224, R227). -/
def Obligations.NopLoadImmediateMove : Prop :=
  ∀ (s : State) (rd ra : SReg) (imm : Nat),
    exec .nop s = .next s ∧
    (∃ t, exec (.ldi rd imm) s = .next t ∧ OnlyScalar rd (wordOf imm) s t) ∧
    (∃ t, exec (.mov rd ra) s = .next t ∧ OnlyScalar rd (s.readS ra) s t)

/-- O22.  RDCR completes for the thirteen control registers with the value R27 to R38 give each, and changes only `S[rd]`. -/
def Obligations.ReadControlRegister : Prop :=
  ∀ (s : State) (rd : SReg),
    (∃ t, exec (.rdcr rd 0) s = .next t ∧ OnlyScalar rd (wordOf (
      (if s.status.busy then 1 else 0) + (if s.status.initok then 2 else 0) + (if s.status.fail then 4 else 0) +
      (if s.status.err then 8 else 0) + (if s.status.fatal then 16 else 0) + (if s.status.z then 32 else 0))) s t) ∧
    (∃ t, exec (.rdcr rd 1) s = .next t ∧ OnlyScalar rd s.fault s t) ∧
    (∃ t, exec (.rdcr rd 2) s = .next t ∧ OnlyScalar rd s.finfo s t) ∧
    (∃ t, exec (.rdcr rd 3) s = .next t ∧ OnlyScalar rd s.q s t) ∧
    (∃ t, exec (.rdcr rd 4) s = .next t ∧ OnlyScalar rd (wordOf s.logn.toNat) s t) ∧
    (∃ t, exec (.rdcr rd 5) s = .next t ∧
      OnlyScalar rd (wordOf (if s.status.initok then 2 ^ s.logn.toNat else 0)) s t) ∧
    (∃ t, exec (.rdcr rd 6) s = .next t ∧ OnlyScalar rd s.width s t) ∧
    (∃ t, exec (.rdcr rd 7) s = .next t ∧ OnlyScalar rd s.root2 s t) ∧
    (∃ t, exec (.rdcr rd 8) s = .next t ∧
      OnlyScalar rd (match s.strat with | .none => 0#64 | .unrolled => 1#64 | .fourStep => 2#64 | .fastish => 3#64) s t) ∧
    (∃ t, exec (.rdcr rd 9) s = .next t ∧ OnlyScalar rd s.icnt s t) ∧
    (∃ t, exec (.rdcr rd 10) s = .next t ∧ OnlyScalar rd s.resid s t) ∧
    (∃ t, exec (.rdcr rd 11) s = .next t ∧ OnlyScalar rd 0xFFFFFFFF00000001#64 s t) ∧
    (∃ t, exec (.rdcr rd 12) s = .next t ∧ OnlyScalar rd 0x01103D1A#64 s t)

/-- O23.  BAD_ARG with the offending value (R162, R165, R186, R225, R242, R248): INIT for log_n above 26, then for q below
2; AUTOINIT for q below 2; ADD32 and SUB32 of an initialised engine for c of 2^32 and more, whatever the index; RDCR for a
number above 12.  Nothing else is written. -/
def Obligations.ArgumentFaults : Prop :=
  ∀ (s : State) (rd ra rb : SReg) (k : Nat),
    (26 < (s.readS ra).toNat →
      exec (.init ra rb) s = .next (faultState .badArg (encode (.init ra rb)) (s.readS ra) s)) ∧
    ((s.readS ra).toNat ≤ 26 → (s.readS rb).toNat < 2 →
      exec (.init ra rb) s = .next (faultState .badArg (encode (.init ra rb)) (s.readS rb) s)) ∧
    ((s.readS ra).toNat < 2 →
      exec (.autoinit ra) s = .next (faultState .badArg (encode (.autoinit ra)) (s.readS ra) s)) ∧
    (s.status.initok = true → 2 ^ 32 ≤ (s.readS ra).toNat →
      exec (.add32 ra rb) s = .next (faultState .badArg (encode (.add32 ra rb)) (s.readS ra) s) ∧
      exec (.sub32 ra rb) s = .next (faultState .badArg (encode (.sub32 ra rb)) (s.readS ra) s)) ∧
    (12 < k → exec (.rdcr rd k) s = .next (faultState .badArg (encode (.rdcr rd k)) (wordOf k) s))

/-- O24.  INDEX_RANGE with the index mod 2^64 when an initialised engine has no such limb (R71, R186, R220, R248): the four
loads and STX for `S[ra] + imm12 ≥ n` without wrap, the carry primitives for a start limb `S[rb] ≥ n`; and STX of a value
that is no field element raises NONCANON after the index check.  Nothing else is written. -/
def Obligations.IndexAndStoreFaults : Prop :=
  ∀ (s : State) (rd ra rb : SReg) (imm : Nat), s.status.initok = true →
    (s.n ≤ (s.readS ra).toNat + imm →
      exec (.ldx rd ra imm) s =
        .next (faultState .indexRange (encode (.ldx rd ra imm)) (wordOf ((s.readS ra).toNat + imm)) s) ∧
      exec (.ldw rd ra imm) s =
        .next (faultState .indexRange (encode (.ldw rd ra imm)) (wordOf ((s.readS ra).toNat + imm)) s) ∧
      exec (.ldu rd ra imm) s =
        .next (faultState .indexRange (encode (.ldu rd ra imm)) (wordOf ((s.readS ra).toNat + imm)) s) ∧
      exec (.ldd rd ra imm) s =
        .next (faultState .indexRange (encode (.ldd rd ra imm)) (wordOf ((s.readS ra).toNat + imm)) s) ∧
      exec (.stx ra rb imm) s =
        .next (faultState .indexRange (encode (.stx ra rb imm)) (wordOf ((s.readS ra).toNat + imm)) s)) ∧
    ((s.readS ra).toNat + imm < s.n → Config.P ≤ (s.readS rb).toNat →
      exec (.stx ra rb imm) s = .next (faultState .noncanon (encode (.stx ra rb imm)) (s.readS rb) s)) ∧
    (s.n ≤ (s.readS rb).toNat →
      exec (.add64 ra rb) s = .next (faultState .indexRange (encode (.add64 ra rb)) (s.readS rb) s) ∧
      ((s.readS ra).toNat < 2 ^ 32 →
        exec (.add32 ra rb) s = .next (faultState .indexRange (encode (.add32 ra rb)) (s.readS rb) s) ∧
        exec (.sub32 ra rb) s = .next (faultState .indexRange (encode (.sub32 ra rb)) (s.readS rb) s)))

/-! ### Cell access -/

/-- O25.  LDX, LDW, LDU and LDD complete for an index `S[ra] + imm12` below n with the cell at that index, zero-extended
for DW, and change only `S[rd]` (R220, R221, R226, R230, R231). -/
def Obligations.LoadsReadOneCell : Prop :=
  ∀ (s : State) (rd ra : SReg) (imm : Nat), s.status.initok = true → (s.readS ra).toNat + imm < s.n →
    (∃ t, exec (.ldx rd ra imm) s = .next t ∧ OnlyScalar rd (cell s.mem.x ((s.readS ra).toNat + imm)) s t) ∧
    (∃ t, exec (.ldw rd ra imm) s = .next t ∧ OnlyScalar rd (cell s.mem.w ((s.readS ra).toNat + imm)) s t) ∧
    (∃ t, exec (.ldu rd ra imm) s = .next t ∧ OnlyScalar rd (cell s.mem.u ((s.readS ra).toNat + imm)) s t) ∧
    (∃ t, exec (.ldd rd ra imm) s = .next t ∧
      OnlyScalar rd (wordOf (digit s.mem.dw ((s.readS ra).toNat + imm))) s t)

/-- O26.  STX completes for an index below n and a field element: the cell at `S[ra] + imm12` holds `S[rb]`, every other
cell of X and everything else is unchanged (R220, R222). -/
def Obligations.StoreWritesOneCell : Prop :=
  ∀ (s : State) (ra rb : SReg) (imm : Nat), s.status.initok = true → s.mem.x.length = s.n →
    (s.readS ra).toNat + imm < s.n → (s.readS rb).toNat < Config.P →
    ∃ t, exec (.stx ra rb imm) s = .next t ∧ OnlyX s t ∧
      cell t.mem.x ((s.readS ra).toNat + imm) = s.readS rb ∧
      ∀ j, j ≠ (s.readS ra).toNat + imm → cell t.mem.x j = cell s.mem.x j

/-! ### Vector operations and transform -/

/-- O27.  VMULW, VMULU and VSQR complete on an initialised engine: every limb becomes the product mod P with its weight,
its unweight, itself, and nothing but X changes (R120 to R123). -/
def Obligations.VectorCommandsCellwise : Prop :=
  ∀ s : State, s.status.initok = true → s.mem.w.length = s.mem.x.length → s.mem.u.length = s.mem.x.length →
    (∃ t, exec .vmulw s = .next t ∧ OnlyX s t ∧ ∀ i, i < s.mem.x.length →
      cell t.mem.x i = wordOf ((cell s.mem.x i).toNat * (cell s.mem.w i).toNat % Config.P)) ∧
    (∃ t, exec .vmulu s = .next t ∧ OnlyX s t ∧ ∀ i, i < s.mem.x.length →
      cell t.mem.x i = wordOf ((cell s.mem.x i).toNat * (cell s.mem.u i).toNat % Config.P)) ∧
    (∃ t, exec .vsqr s = .next t ∧ OnlyX s t ∧ ∀ i, i < s.mem.x.length →
      cell t.mem.x i = wordOf ((cell s.mem.x i).toNat ^ 2 % Config.P))

/-- O28.  VMULW then VMULU divides every limb by n in the field: multiplied by n it is the limb again (R122, R167, R278). -/
def Obligations.WeightThenUnweightDividesByLength : Prop :=
  ∀ s : State, Ready s → ∃ t, execAll [.vmulw, .vmulu] s = .next t ∧ OnlyX s t ∧
    ∀ i, i < s.n → (cell t.mem.x i).toNat * s.n % Config.P = (cell s.mem.x i).toNat

/-- O29.  `ω_n = 7^((P-1)/n) mod P` is a primitive n-th root of unity for every supported n (R130): its n-th power is 1,
its (n/2)-th power is P - 1, and `finv` inverts it; with the values the rule lists. -/
def Obligations.RootOfUnityIsPrimitive : Prop :=
  (∀ l, l ≤ 26 →
    rootOfUnity l = 7 ^ ((Config.P - 1) / 2 ^ l) % Config.P ∧
    fpow (rootOfUnity l) (2 ^ l) = 1 ∧
    (1 ≤ l → fpow (rootOfUnity l) (2 ^ (l - 1)) = Config.P - 1) ∧
    fmul (rootOfUnity l) (finv (rootOfUnity l)) = 1) ∧
  rootOfUnity 0 = 1 ∧ rootOfUnity 1 = 0xFFFFFFFF00000000 ∧ rootOfUnity 2 = 0x0001000000000000 ∧
  rootOfUnity 3 = 0xFFFFFFFEFF000001 ∧ finv (rootOfUnity 2) = 0xFFFEFFFF00000001

/-- O30.  NTTF completes on an initialised engine: `X[k] = (Σ_j X[j] ω_n^(j k)) mod P` in natural order, and nothing but X
changes (R131, R136, R143). -/
def Obligations.ForwardTransformCells : Prop :=
  ∀ s : State, s.status.initok = true → s.logn.toNat ≤ 26 → s.mem.x.length = s.n →
    ∃ t, exec .nttf s = .next t ∧ OnlyX s t ∧ ∀ k, k < s.n →
      cell t.mem.x k = wordOf
        ((Finset.range s.n).sum (fun j => (cell s.mem.x j).toNat * rootOfUnity s.logn.toNat ^ (j * k)) % Config.P)

/-- O31.  NTTI completes on an initialised engine: `X[j] = (Σ_k X[k] ω_n^(-j k)) mod P` in natural order, without division
by n, and nothing but X changes (R132, R137, R143). -/
def Obligations.InverseTransformCells : Prop :=
  ∀ s : State, s.status.initok = true → s.logn.toNat ≤ 26 → s.mem.x.length = s.n →
    ∃ t, exec .ntti s = .next t ∧ OnlyX s t ∧ ∀ j, j < s.n →
      cell t.mem.x j = wordOf
        ((Finset.range s.n).sum (fun k => (cell s.mem.x k).toNat * finv (rootOfUnity s.logn.toNat) ^ (j * k)) %
          Config.P)

/-- O32.  Round trip and convolution (R133): for arrays of n field elements, inverse(forward(v)) and forward(inverse(v))
are v times n, and the inverse of the elementwise product of two transforms is n times the cyclic convolution. -/
def Obligations.TransformRoundTripAndConvolution : Prop :=
  ∀ (l : Nat) (a b : List Word), l ≤ 26 → a.length = 2 ^ l → b.length = 2 ^ l →
    canonicalCells a = true → canonicalCells b = true →
    (∀ i, i < 2 ^ l → cell (inverse l (forward l a)) i = wordOf ((cell a i).toNat * 2 ^ l % Config.P)) ∧
    (∀ i, i < 2 ^ l → cell (forward l (inverse l a)) i = wordOf ((cell a i).toNat * 2 ^ l % Config.P)) ∧
    (∀ k, k < 2 ^ l → cell (inverse l (vectorMul (forward l a) (forward l b))) k = wordOf
      (2 ^ l * (Finset.range (2 ^ l)).sum (fun i => (Finset.range (2 ^ l)).sum (fun j =>
        if (i + j) % 2 ^ l = k then (cell a i).toNat * (cell b j).toNat else 0)) % Config.P))

/-- O33.  Bailey's four steps under the index convention of R140 compute `forward`, and with the inverse root `inverse`,
at every even log_n. -/
def Obligations.FourStepComputesTransform : Prop :=
  ∀ (h : Nat) (x : List Word), h ≤ 13 → x.length = 2 ^ h * 2 ^ h →
    fourStep (rootOfUnity (2 * h)) (2 ^ h) x = forward (2 * h) x ∧
    fourStep (finv (rootOfUnity (2 * h))) (2 ^ h) x = inverse (2 * h) x

/-! ### Table builder, INIT and AUTOINIT -/

/-- O34.  The root-of-two check passes for every supported size (R152, R153): `root2^n = 2`; with the values R152 lists. -/
def Obligations.RootOfTwoCheckPasses : Prop :=
  (∀ l, l ≤ 26 → fpow (rootTwo (2 ^ l)) (2 ^ l) = 2) ∧
  rootTwo (2 ^ 0) = 2 ∧ rootTwo (2 ^ 1) = 0x000000FFFEFFFF00 ∧ rootTwo (2 ^ 2) = 0x016D6C453F081F47 ∧
  rootTwo (2 ^ 3) = 0x2D4E78439F248617 ∧ rootTwo (2 ^ 10) = 0x7CF00A9A71E0F96E ∧
  rootTwo (2 ^ 11) = 0x8DBD920598C50582 ∧ rootTwo (2 ^ 12) = 0x538F136184317B27 ∧
  rootTwo (2 ^ 26) = 0xE9653C8DEFA860A9

/-- O35.  The builder's checks after the guard never fail (R155, R156): every intermediate fits in 32 bits and every limb
is `width` or `width + 1` bits wide. -/
def Obligations.BuilderChecksNeverFail : Prop :=
  ∀ l q : Nat, l ≤ 26 → 2 * (q / 2 ^ l) + l ≤ 60 → builderChecks q (2 ^ l) (q / 2 ^ l) = true

/-- O36. The balanced split (R154, R156): the addresses are `⌈q i/n⌉`, each limb is `⌊q/n⌋` or `⌊q/n⌋ + 1` bits wide,
the widths sum to q, and `q mod n` limbs are large. -/
def Obligations.DigitWidthsSplitExponent : Prop :=
  ∀ n q : Nat, 0 < n →
    (∀ i, limbAddr q n i = (q * i + n - 1) / n) ∧
    (∀ i, i < n → limbWidth q n i = q / n ∨ limbWidth q n i = q / n + 1) ∧
    ((List.range n).map (limbWidth q n)).sum = q ∧
    ((List.range n).filter (fun i => limbWidth q n i = q / n + 1)).length = q % n

/-- O37.  INIT completes and succeeds for log_n ≤ 26, q ≥ 2 and a pair the guard accepts (R160, R163): the flags, the
registers, the tables of R154 to R157, X with n field elements of unstated value, and what stays.  That X then holds
field elements at all is the model's reading of R49 (assumption 3).  The host's list and the last data read, which stay,
are the model's own (assumption 6). -/
def Obligations.InitSucceeds : Prop :=
  ∀ (s : State) (ra rb : SReg) (l q n : Nat), (s.readS ra).toNat = l → (s.readS rb).toNat = q → n = 2 ^ l →
    l ≤ 26 → 2 ≤ q → 2 * (q / n) + l ≤ 60 →
    ∃ t, exec (.init ra rb) s = .next t ∧
      t.status = { s.status with initok := true, fail := false, z := false } ∧
      t.q = s.readS rb ∧ t.logn.toNat = l ∧ t.width = wordOf (q / n) ∧
      t.root2 = wordOf (7 ^ (5 * (Config.P - 1) / (192 * n)) % Config.P) ∧
      t.strat = (if l ≤ 10 then .unrolled else if l % 2 = 0 then .fourStep else .fastish) ∧
      t.icnt = 0#64 ∧ t.resid = 0#64 ∧ t.fault = s.fault ∧ t.finfo = s.finfo ∧ t.scalars = s.scalars ∧
      t.inbox = s.inbox ∧ t.reply = s.reply ∧
      t.mem.x.length = n ∧ canonicalCells t.mem.x = true ∧
      t.mem.w.length = n ∧ t.mem.u.length = n ∧ t.mem.dw.length = n ∧
      ∀ i, i < n →
        digit t.mem.dw i = (q * (i + 1) + n - 1) / n - (q * i + n - 1) / n ∧
        (cell t.mem.w i).toNat = (if i = 0 then 1 else t.root2.toNat ^ (n - q * i % n) % Config.P) ∧
        (cell t.mem.u i).toNat = ((cell t.mem.w i).toNat * n % Config.P) ^ (Config.P - 2) % Config.P

/-- O38.  INIT completes with the retryable failure when the guard rejects the pair (R151, R161, R241): FAIL is set, no
fault is recorded, Q, LOGN and WIDTH hold the attempt, ROOT2 is unchanged, and the old memories are gone.  The model's
own fields stay too (assumptions 6 and 17). -/
def Obligations.InitGuardFailure : Prop :=
  ∀ (s : State) (ra rb : SReg), (s.readS ra).toNat ≤ 26 → 2 ≤ (s.readS rb).toNat →
    61 ≤ 2 * ((s.readS rb).toNat / 2 ^ (s.readS ra).toNat) + (s.readS ra).toNat →
    exec (.init ra rb) s = .next { s with
      status := { s.status with initok := false, fail := true, z := false }
      q := s.readS rb
      logn := BitVec.ofNat 5 (s.readS ra).toNat
      width := wordOf ((s.readS rb).toNat / 2 ^ (s.readS ra).toNat)
      strat := .none
      icnt := 0#64
      resid := 0#64
      mem := { x := [], w := [], u := [], dw := [] } }

/-- O39.  AUTOINIT completes and succeeds for 2 ≤ q ≤ 1207959551 (R10, R165, R166): at the smallest log_n the guard
accepts, with the tables of R47 for (q, log_n), and it writes no scalar register and records no fault.  That X then
holds field elements is the model's reading of R49 (assumption 3); the host's list and the last data read are its own
(assumption 6). -/
def Obligations.AutoinitChoosesSmallestSize : Prop :=
  ∀ (s : State) (ra : SReg), 2 ≤ (s.readS ra).toNat → (s.readS ra).toNat ≤ 1207959551 →
    ∃ t l, exec (.autoinit ra) s = .next t ∧
      l ≤ 26 ∧ 2 * ((s.readS ra).toNat / 2 ^ l) + l ≤ 60 ∧
      (∀ m, m < l → 61 ≤ 2 * ((s.readS ra).toNat / 2 ^ m) + m) ∧
      t.status = { s.status with initok := true, fail := false, z := false } ∧
      t.logn.toNat = l ∧ t.q = s.readS ra ∧ EngineTables t ∧ t.icnt = 0#64 ∧ t.resid = 0#64 ∧
      t.fault = s.fault ∧ t.finfo = s.finfo ∧ t.scalars = s.scalars ∧ t.inbox = s.inbox ∧ t.reply = s.reply

/-- O40.  AUTOINIT of an exponent above 1207959551 exhausts every size and halts the engine (R10, R165, R245): FATAL and
FAIL set, INITOK and ERR as R245 says, Q, LOGN = 26 and WIDTH those of the last attempt, the record made unless a fault
stood there.  That the memories are then empty is the model's reading of R252 (assumption 21); its own fields stay too
(assumptions 6 and 17). -/
def Obligations.AutoinitExhaustionIsFatal : Prop :=
  ∀ (s : State) (ra : SReg), 1207959552 ≤ (s.readS ra).toNat →
    exec (.autoinit ra) s = .next { s with
      status := { s.status with initok := false, fail := true, fatal := true, z := false }
      fault := if s.status.err then s.fault else wordOf ((0x41000000 + ra.val * 2 ^ 16) * 2 ^ 32 + 0x81)
      finfo := if s.status.err then s.finfo else s.readS ra
      q := s.readS ra
      logn := 26#5
      width := wordOf ((s.readS ra).toNat / 2 ^ 26)
      strat := .none
      icnt := 0#64
      resid := 0#64
      mem := { x := [], w := [], u := [], dw := [] } }

/-- O41.  The invariants of an initialised engine (R47): the ranges, the digit widths and their sum, the root of two, the
two tables, and that weight, unweight and n multiply to 1. -/
def Obligations.InitialisedEngineTables : Prop :=
  ∀ s : State, EngineTables s →
    2 ≤ s.q.toNat ∧ s.logn.toNat ≤ 26 ∧ 2 * s.width.toNat + s.logn.toNat ≤ 60 ∧
    (∀ i, i < s.n →
      digit s.mem.dw i = limbAddr s.q.toNat s.n (i + 1) - limbAddr s.q.toNat s.n i ∧
      (digit s.mem.dw i = s.width.toNat ∨ digit s.mem.dw i = s.width.toNat + 1)) ∧
    (s.mem.dw.map BitVec.toNat).sum = s.q.toNat ∧
    fpow s.root2.toNat s.n = 2 ∧
    cell s.mem.w 0 = 1#64 ∧ (cell s.mem.u 0).toNat = finv s.n ∧
    (∀ i, 1 ≤ i → i < s.n →
      (cell s.mem.w i).toNat = fpow s.root2.toNat (s.n - s.q.toNat * i % s.n) ∧
      (cell s.mem.u i).toNat = finv (fmul (cell s.mem.w i).toNat s.n)) ∧
    (∀ i, i < s.n → fmul (fmul (cell s.mem.w i).toNat (cell s.mem.u i).toNat) s.n = 1) ∧
    s.strat ≠ .none

/-! ### Carry unit -/

/-- O42.  CARRY completes from every initialised state, whatever the limbs (R182, R189): it leaves a valid state of the
same value mod 2^q - 1, and nothing but X changes. -/
def Obligations.CarryNormalises : Prop :=
  ∀ s : State, Ready s → ∃ t, exec .carry s = .next t ∧ OnlyX s t ∧
    validLimbs t.mem.x t.mem.dw = true ∧
    limbValue t.mem.x t.mem.dw ≡ limbValue s.mem.x s.mem.dw [MOD 2 ^ s.q.toNat - 1]

/-- O43.  CARRY leaves a valid state unchanged (R182 corner case). -/
def Obligations.CarryKeepsValidState : Prop :=
  ∀ s : State, s.status.initok = true → validLimbs s.mem.x s.mem.dw = true → exec .carry s = .next s

/-- O44.  ADD32 and ADD64 complete on a valid state (R187, R188): the value grows by `c 2^addr(i0)` mod 2^q - 1, the state
stays valid, and nothing but X changes. -/
def Obligations.AddIncreasesValue : Prop :=
  ∀ (s : State) (ra rb : SReg), Ready s → validLimbs s.mem.x s.mem.dw = true → (s.readS rb).toNat < s.n →
    (∃ t, exec (.add64 ra rb) s = .next t ∧ OnlyX s t ∧ validLimbs t.mem.x t.mem.dw = true ∧
      limbValue t.mem.x t.mem.dw ≡
        limbValue s.mem.x s.mem.dw + (s.readS ra).toNat * 2 ^ bitAddress s.mem.dw (s.readS rb).toNat
        [MOD 2 ^ s.q.toNat - 1]) ∧
    ((s.readS ra).toNat < 2 ^ 32 →
      ∃ t, exec (.add32 ra rb) s = .next t ∧ OnlyX s t ∧ validLimbs t.mem.x t.mem.dw = true ∧
        limbValue t.mem.x t.mem.dw ≡
          limbValue s.mem.x s.mem.dw + (s.readS ra).toNat * 2 ^ bitAddress s.mem.dw (s.readS rb).toNat
          [MOD 2 ^ s.q.toNat - 1])

/-- O45.  SUB32 completes on a valid state (R190): the value shrinks by `c 2^addr(i0)` mod 2^q - 1, the state stays valid,
and nothing but X changes. -/
def Obligations.SubtractDecreasesValue : Prop :=
  ∀ (s : State) (ra rb : SReg), Ready s → validLimbs s.mem.x s.mem.dw = true → (s.readS rb).toNat < s.n →
    (s.readS ra).toNat < 2 ^ 32 →
    ∃ t, exec (.sub32 ra rb) s = .next t ∧ OnlyX s t ∧ validLimbs t.mem.x t.mem.dw = true ∧
      limbValue t.mem.x t.mem.dw + (s.readS ra).toNat * 2 ^ bitAddress s.mem.dw (s.readS rb).toNat ≡
        limbValue s.mem.x s.mem.dw [MOD 2 ^ s.q.toNat - 1]

/-- O46.  ADD32, ADD64 and SUB32 end from every initialised state, valid or not, and for every c they accept (R189);
each changes nothing but X and leaves an initialised state that meets the invariant of the machine.  The loops are
bounded in the model, which stops where the bound does not suffice (assumption 9). -/
def Obligations.CarryLoopsTerminate : Prop :=
  ∀ (s : State) (ra rb : SReg), Ready s → (s.readS rb).toNat < s.n →
    (∃ t, exec (.add64 ra rb) s = .next t ∧ OnlyX s t ∧ Ready t) ∧
    ((s.readS ra).toNat < 2 ^ 32 →
      (∃ t, exec (.add32 ra rb) s = .next t ∧ OnlyX s t ∧ Ready t) ∧
      (∃ t, exec (.sub32 ra rb) s = .next t ∧ OnlyX s t ∧ Ready t))

/-! ### Mersenne engine -/

/-- O47.  MUL and RUN complete from every initialised state (R195, R202): MUL leaves a valid state and adds 1 to ICNT;
RUN leaves ICNT at its count, and a valid state for a count of at least 1; nothing but X and ICNT changes.  The loops
are bounded in the model, which stops where the bound does not suffice (assumption 9). -/
def Obligations.MulAndRunComplete : Prop :=
  ∀ (s : State) (ra : SReg), Ready s →
    (∃ t, exec .mul s = .next t ∧ t = { s with mem := { s.mem with x := t.mem.x }, icnt := s.icnt + 1#64 } ∧
      t.mem.x.length = s.n ∧ validLimbs t.mem.x t.mem.dw = true) ∧
    (∃ t count, exec (.run ra) s = .next t ∧
      count = (if s.readS ra = 0#64 then s.q.toNat - 2 else (s.readS ra).toNat) ∧
      t = { s with mem := { s.mem with x := t.mem.x }, icnt := wordOf count } ∧
      t.mem.x.length = s.n ∧ (1 ≤ count → validLimbs t.mem.x t.mem.dw = true))

/-- O48.  MUL is the sequence VMULW, NTTF, VSQR, NTTI, VMULU, CARRY, SUB32 of 2 at limb 0, followed by the increment of
ICNT, in both directions.  The spec derives this itself (R196, `MUL is exactly the command sequence`). -/
def Obligations.MulIsStageSequence : Prop :=
  ∀ (s t : State) (ra rb : SReg), s.status.initok = true → s.readS ra = 2#64 → s.readS rb = 0#64 →
    (execAll [.vmulw, .nttf, .vsqr, .ntti, .vmulu, .carry, .sub32 ra rb] s = .next t →
      exec .mul s = .next { t with icnt := s.icnt + 1#64 }) ∧
    (exec .mul s = .next t →
      execAll [.vmulw, .nttf, .vsqr, .ntti, .vmulu, .carry, .sub32 ra rb] s = .next { t with icnt := s.icnt })

/-- O49. What MUL computes, as the spec derives it itself (R197 `What MUL computes`): from a valid state of value v,
with gcd(q, n) = 1, a valid state of a value congruent to v^2 - 2 mod 2^q - 1 that is not all-saturated. -/
def Obligations.MulComputesSquareMinusTwo : Prop :=
  ∀ s : State, Ready s → Nat.Coprime s.q.toNat s.n → validLimbs s.mem.x s.mem.dw = true →
    ∃ t, exec .mul s = .next t ∧ validLimbs t.mem.x t.mem.dw = true ∧
      limbValue t.mem.x t.mem.dw + 2 ≡ limbValue s.mem.x s.mem.dw ^ 2 [MOD 2 ^ s.q.toNat - 1] ∧
      limbValue t.mem.x t.mem.dw ≠ 2 ^ s.q.toNat - 1

/-- O50.  SEED (R200): its word is 0x55000000; on an initialised engine it completes, limb 0 is 4, every other limb 0, ICNT
0, and nothing else changes; otherwise it raises NOT_INIT. -/
def Obligations.SeedWritesFour : Prop :=
  encode .seed = 0x55000000#32 ∧
  (∀ s : State, s.status.initok = true →
    ∃ t, exec .seed s = .next t ∧ t = { s with mem := { s.mem with x := t.mem.x }, icnt := 0#64 } ∧
      t.mem.x.length = s.n ∧ cell t.mem.x 0 = 4#64 ∧ ∀ i, 1 ≤ i → cell t.mem.x i = 0#64) ∧
  (∀ s : State, s.status.initok = false → exec .seed s = .next (faultState .notInit 0x55000000#32 0#64 s))

/-- O51.  RUN equals SEED followed by `count` MUL commands, as the spec derives it itself (R203). -/
def Obligations.RunIsSeedThenMuls : Prop :=
  ∀ (s : State) (ra : SReg), s.status.initok = true →
    exec (.run ra) s =
      execAll (.seed :: List.replicate (if s.readS ra = 0#64 then s.q.toNat - 2 else (s.readS ra).toNat) .mul) s

/-- O52.  The verdict, as the spec derives it itself: for every initialised engine with q coprime to n, RUN with 0 then
RESIDUE completes and sets Z exactly when 2^q - 1 divides `s_(q-2)` of the Lucas-Lehmer sequence.  R205 says so of odd q
accepted by AUTOINIT; that it holds for every such pair INIT accepts rests on R197, and that it holds where limb 0 is
too narrow for the seed on R201 and R284. -/
def Obligations.RunAndResidueDecideLucasLehmer : Prop :=
  ∀ (s : State) (ra rd : SReg), Ready s → Nat.Coprime s.q.toNat s.n → s.readS ra = 0#64 →
    ∃ t, execAll [.run ra, .residue rd] s = .next t ∧
      (t.status.z = true ↔ ((2 ^ s.q.toNat - 1 : Nat) : Int) ∣ lucasLehmer (s.q.toNat - 2))

/-- O53.  RESIDUE completes on a valid state (R207, R208): with r the low 64 bits of the value, it reports r when r is
not 0; 0 with Z = 1 when every limb is 0; and otherwise some value other than 0, the same in every state, with Z = 0.
It writes `S[rd]`, RESID and Z and nothing else.  That one value serves every state is the parameter RESIDUE_ALIAS of R6
(assumption 4). -/
def Obligations.ResidueReportsLowWord : Prop :=
  ∃ residueAlias : Word, residueAlias ≠ 0#64 ∧
    ∀ (s : State) (rd : SReg), s.status.initok = true → validLimbs s.mem.x s.mem.dw = true →
      ∃ t v, exec (.residue rd) s = .next t ∧
        v = (if limbValue s.mem.x s.mem.dw % 2 ^ 64 ≠ 0 then wordOf (limbValue s.mem.x s.mem.dw)
          else if (∀ a ∈ s.mem.x, a = 0#64) then 0#64 else residueAlias) ∧
        OnlyScalar rd v
          { s with resid := v, status := { s.status with z := decide (∀ a ∈ s.mem.x, a = 0#64) } } t

/-- O54.  From every initialised state, valid or not, RESIDUE completes, does not change X, and sets Z exactly when every
limb is 0; a reported 0 means the same (R28, R207, U5). -/
def Obligations.ResidueZeroFlagIsExact : Prop :=
  ∀ (s : State) (rd : SReg), s.status.initok = true →
    ∃ t, exec (.residue rd) s = .next t ∧ t.mem = s.mem ∧ t.resid = t.readS rd ∧
      (t.status.z = true ↔ ∀ a ∈ s.mem.x, a = 0#64) ∧ (t.readS rd = 0#64 ↔ ∀ a ∈ s.mem.x, a = 0#64)

/-! ### Invariants of every step -/

/-- O55.  The invariant of the machine holds right after reset. -/
def Obligations.ResetMeetsMachineInvariant : Prop := MachineInv State.reset

/-- O56.  Every step keeps the invariant of the machine (R28, R29, R31, R35, R40, R44, R47, R48, R252): from every state
that meets it, whatever the host does, the next state meets it.  The steps are the model's, one host transaction each
(assumption 6), with its readings of accesses that are not accepted (assumption 8), of X after INIT (assumption 3) and
of the halted engine's memories (assumption 21). -/
def Obligations.StepKeepsMachineInvariant : Prop :=
  ∀ s t : State, MachineInv s → step s = .next t → MachineInv t

/-- O57.  The invariant of the machine implies the canonical form of the memories (R20, R40 to R43): equal lengths,
canonical cells, digit widths at most 31. -/
def Obligations.InvariantGivesCanonicalMemory : Prop := ∀ s : State, MachineInv s → s.mem.wf = true

/-- O58.  A step of a state that meets the invariant always goes on: no host transaction, no command and no data makes
the model fault or refuse (R240, R251, R189).  That a misaligned or narrow access, which R68 has the model refuse, goes
on as a step that only takes it from the host's list is the model's reading of R68 and U13 (assumption 8); that a step
serves one host transaction is the model's choice (assumption 6).  The loops are bounded in the model, which stops where
the bound does not suffice (assumption 9). -/
def Obligations.EveryStepContinues : Prop := ∀ s : State, MachineInv s → Continues (step s)

/-- O59.  An idle engine waits: without a host transaction a step keeps all its state (R48, R260; the list of transactions is
the model's, assumption 6). -/
def Obligations.IdleEngineWaits : Prop := ∀ s : State, s.inbox = [] → step s = .next s
end

