-- ==== Sys2Proof/Laws/State.lean ====
section
/-! SUPPORT. One lemma per field of State per update, each true by rfl, so that no proof unfolds a record update. -/

namespace Sys2Proof.Machine

section writeSFields
variable (s : State) (i : SReg) (v : Word)

@[simp] theorem State.writeS_scalars : (s.writeS i v).scalars = s.scalars.set i.val v := rfl
@[simp] theorem State.writeS_status : (s.writeS i v).status = s.status := rfl
@[simp] theorem State.writeS_fault : (s.writeS i v).fault = s.fault := rfl
@[simp] theorem State.writeS_finfo : (s.writeS i v).finfo = s.finfo := rfl
@[simp] theorem State.writeS_q : (s.writeS i v).q = s.q := rfl
@[simp] theorem State.writeS_logn : (s.writeS i v).logn = s.logn := rfl
@[simp] theorem State.writeS_width : (s.writeS i v).width = s.width := rfl
@[simp] theorem State.writeS_root2 : (s.writeS i v).root2 = s.root2 := rfl
@[simp] theorem State.writeS_strat : (s.writeS i v).strat = s.strat := rfl
@[simp] theorem State.writeS_icnt : (s.writeS i v).icnt = s.icnt := rfl
@[simp] theorem State.writeS_resid : (s.writeS i v).resid = s.resid := rfl
@[simp] theorem State.writeS_mem : (s.writeS i v).mem = s.mem := rfl
@[simp] theorem State.writeS_freeCount : (s.writeS i v).freeCount = s.freeCount := rfl
@[simp] theorem State.writeS_inbox : (s.writeS i v).inbox = s.inbox := rfl
@[simp] theorem State.writeS_reply : (s.writeS i v).reply = s.reply := rfl
@[simp] theorem State.writeS_n : (s.writeS i v).n = s.n := rfl

end writeSFields

section setXFields
variable (s : State) (l : List Word)

@[simp] theorem State.setX_scalars : (s.setX l).scalars = s.scalars := rfl
@[simp] theorem State.setX_status : (s.setX l).status = s.status := rfl
@[simp] theorem State.setX_fault : (s.setX l).fault = s.fault := rfl
@[simp] theorem State.setX_finfo : (s.setX l).finfo = s.finfo := rfl
@[simp] theorem State.setX_q : (s.setX l).q = s.q := rfl
@[simp] theorem State.setX_logn : (s.setX l).logn = s.logn := rfl
@[simp] theorem State.setX_width : (s.setX l).width = s.width := rfl
@[simp] theorem State.setX_root2 : (s.setX l).root2 = s.root2 := rfl
@[simp] theorem State.setX_strat : (s.setX l).strat = s.strat := rfl
@[simp] theorem State.setX_icnt : (s.setX l).icnt = s.icnt := rfl
@[simp] theorem State.setX_resid : (s.setX l).resid = s.resid := rfl
@[simp] theorem State.setX_mem : (s.setX l).mem = { s.mem with x := l } := rfl
@[simp] theorem State.setX_freeCount : (s.setX l).freeCount = s.freeCount := rfl
@[simp] theorem State.setX_inbox : (s.setX l).inbox = s.inbox := rfl
@[simp] theorem State.setX_reply : (s.setX l).reply = s.reply := rfl
@[simp] theorem State.setX_n : (s.setX l).n = s.n := rfl

end setXFields

section writeXFields
variable (s : State) (i : Nat) (v : Word)

@[simp] theorem State.writeX_scalars : (s.writeX i v).scalars = s.scalars := rfl
@[simp] theorem State.writeX_status : (s.writeX i v).status = s.status := rfl
@[simp] theorem State.writeX_fault : (s.writeX i v).fault = s.fault := rfl
@[simp] theorem State.writeX_finfo : (s.writeX i v).finfo = s.finfo := rfl
@[simp] theorem State.writeX_q : (s.writeX i v).q = s.q := rfl
@[simp] theorem State.writeX_logn : (s.writeX i v).logn = s.logn := rfl
@[simp] theorem State.writeX_width : (s.writeX i v).width = s.width := rfl
@[simp] theorem State.writeX_root2 : (s.writeX i v).root2 = s.root2 := rfl
@[simp] theorem State.writeX_strat : (s.writeX i v).strat = s.strat := rfl
@[simp] theorem State.writeX_icnt : (s.writeX i v).icnt = s.icnt := rfl
@[simp] theorem State.writeX_resid : (s.writeX i v).resid = s.resid := rfl
@[simp] theorem State.writeX_mem : (s.writeX i v).mem = { s.mem with x := s.mem.x.set i v } := rfl
@[simp] theorem State.writeX_freeCount : (s.writeX i v).freeCount = s.freeCount := rfl
@[simp] theorem State.writeX_inbox : (s.writeX i v).inbox = s.inbox := rfl
@[simp] theorem State.writeX_reply : (s.writeX i v).reply = s.reply := rfl
@[simp] theorem State.writeX_n : (s.writeX i v).n = s.n := rfl

end writeXFields

section setIcntFields
variable (s : State) (v : Word)

@[simp] theorem State.setIcnt_scalars : (s.setIcnt v).scalars = s.scalars := rfl
@[simp] theorem State.setIcnt_status : (s.setIcnt v).status = s.status := rfl
@[simp] theorem State.setIcnt_fault : (s.setIcnt v).fault = s.fault := rfl
@[simp] theorem State.setIcnt_finfo : (s.setIcnt v).finfo = s.finfo := rfl
@[simp] theorem State.setIcnt_q : (s.setIcnt v).q = s.q := rfl
@[simp] theorem State.setIcnt_logn : (s.setIcnt v).logn = s.logn := rfl
@[simp] theorem State.setIcnt_width : (s.setIcnt v).width = s.width := rfl
@[simp] theorem State.setIcnt_root2 : (s.setIcnt v).root2 = s.root2 := rfl
@[simp] theorem State.setIcnt_strat : (s.setIcnt v).strat = s.strat := rfl
@[simp] theorem State.setIcnt_icnt : (s.setIcnt v).icnt = v := rfl
@[simp] theorem State.setIcnt_resid : (s.setIcnt v).resid = s.resid := rfl
@[simp] theorem State.setIcnt_mem : (s.setIcnt v).mem = s.mem := rfl
@[simp] theorem State.setIcnt_freeCount : (s.setIcnt v).freeCount = s.freeCount := rfl
@[simp] theorem State.setIcnt_inbox : (s.setIcnt v).inbox = s.inbox := rfl
@[simp] theorem State.setIcnt_reply : (s.setIcnt v).reply = s.reply := rfl
@[simp] theorem State.setIcnt_n : (s.setIcnt v).n = s.n := rfl

end setIcntFields

section setResidFields
variable (s : State) (v : Word)

@[simp] theorem State.setResid_scalars : (s.setResid v).scalars = s.scalars := rfl
@[simp] theorem State.setResid_status : (s.setResid v).status = s.status := rfl
@[simp] theorem State.setResid_fault : (s.setResid v).fault = s.fault := rfl
@[simp] theorem State.setResid_finfo : (s.setResid v).finfo = s.finfo := rfl
@[simp] theorem State.setResid_q : (s.setResid v).q = s.q := rfl
@[simp] theorem State.setResid_logn : (s.setResid v).logn = s.logn := rfl
@[simp] theorem State.setResid_width : (s.setResid v).width = s.width := rfl
@[simp] theorem State.setResid_root2 : (s.setResid v).root2 = s.root2 := rfl
@[simp] theorem State.setResid_strat : (s.setResid v).strat = s.strat := rfl
@[simp] theorem State.setResid_icnt : (s.setResid v).icnt = s.icnt := rfl
@[simp] theorem State.setResid_resid : (s.setResid v).resid = v := rfl
@[simp] theorem State.setResid_mem : (s.setResid v).mem = s.mem := rfl
@[simp] theorem State.setResid_freeCount : (s.setResid v).freeCount = s.freeCount := rfl
@[simp] theorem State.setResid_inbox : (s.setResid v).inbox = s.inbox := rfl
@[simp] theorem State.setResid_reply : (s.setResid v).reply = s.reply := rfl
@[simp] theorem State.setResid_n : (s.setResid v).n = s.n := rfl

end setResidFields

section setInitokFields
variable (s : State) (b : Bool)

@[simp] theorem State.setInitok_scalars : (s.setInitok b).scalars = s.scalars := rfl
@[simp] theorem State.setInitok_status : (s.setInitok b).status = { s.status with initok := b } := rfl
@[simp] theorem State.setInitok_fault : (s.setInitok b).fault = s.fault := rfl
@[simp] theorem State.setInitok_finfo : (s.setInitok b).finfo = s.finfo := rfl
@[simp] theorem State.setInitok_q : (s.setInitok b).q = s.q := rfl
@[simp] theorem State.setInitok_logn : (s.setInitok b).logn = s.logn := rfl
@[simp] theorem State.setInitok_width : (s.setInitok b).width = s.width := rfl
@[simp] theorem State.setInitok_root2 : (s.setInitok b).root2 = s.root2 := rfl
@[simp] theorem State.setInitok_strat : (s.setInitok b).strat = s.strat := rfl
@[simp] theorem State.setInitok_icnt : (s.setInitok b).icnt = s.icnt := rfl
@[simp] theorem State.setInitok_resid : (s.setInitok b).resid = s.resid := rfl
@[simp] theorem State.setInitok_mem : (s.setInitok b).mem = s.mem := rfl
@[simp] theorem State.setInitok_freeCount : (s.setInitok b).freeCount = s.freeCount := rfl
@[simp] theorem State.setInitok_inbox : (s.setInitok b).inbox = s.inbox := rfl
@[simp] theorem State.setInitok_reply : (s.setInitok b).reply = s.reply := rfl
@[simp] theorem State.setInitok_n : (s.setInitok b).n = s.n := rfl

end setInitokFields

section setFailFields
variable (s : State) (b : Bool)

@[simp] theorem State.setFail_scalars : (s.setFail b).scalars = s.scalars := rfl
@[simp] theorem State.setFail_status : (s.setFail b).status = { s.status with fail := b } := rfl
@[simp] theorem State.setFail_fault : (s.setFail b).fault = s.fault := rfl
@[simp] theorem State.setFail_finfo : (s.setFail b).finfo = s.finfo := rfl
@[simp] theorem State.setFail_q : (s.setFail b).q = s.q := rfl
@[simp] theorem State.setFail_logn : (s.setFail b).logn = s.logn := rfl
@[simp] theorem State.setFail_width : (s.setFail b).width = s.width := rfl
@[simp] theorem State.setFail_root2 : (s.setFail b).root2 = s.root2 := rfl
@[simp] theorem State.setFail_strat : (s.setFail b).strat = s.strat := rfl
@[simp] theorem State.setFail_icnt : (s.setFail b).icnt = s.icnt := rfl
@[simp] theorem State.setFail_resid : (s.setFail b).resid = s.resid := rfl
@[simp] theorem State.setFail_mem : (s.setFail b).mem = s.mem := rfl
@[simp] theorem State.setFail_freeCount : (s.setFail b).freeCount = s.freeCount := rfl
@[simp] theorem State.setFail_inbox : (s.setFail b).inbox = s.inbox := rfl
@[simp] theorem State.setFail_reply : (s.setFail b).reply = s.reply := rfl
@[simp] theorem State.setFail_n : (s.setFail b).n = s.n := rfl

end setFailFields

section setErrFields
variable (s : State) (b : Bool)

@[simp] theorem State.setErr_scalars : (s.setErr b).scalars = s.scalars := rfl
@[simp] theorem State.setErr_status : (s.setErr b).status = { s.status with err := b } := rfl
@[simp] theorem State.setErr_fault : (s.setErr b).fault = s.fault := rfl
@[simp] theorem State.setErr_finfo : (s.setErr b).finfo = s.finfo := rfl
@[simp] theorem State.setErr_q : (s.setErr b).q = s.q := rfl
@[simp] theorem State.setErr_logn : (s.setErr b).logn = s.logn := rfl
@[simp] theorem State.setErr_width : (s.setErr b).width = s.width := rfl
@[simp] theorem State.setErr_root2 : (s.setErr b).root2 = s.root2 := rfl
@[simp] theorem State.setErr_strat : (s.setErr b).strat = s.strat := rfl
@[simp] theorem State.setErr_icnt : (s.setErr b).icnt = s.icnt := rfl
@[simp] theorem State.setErr_resid : (s.setErr b).resid = s.resid := rfl
@[simp] theorem State.setErr_mem : (s.setErr b).mem = s.mem := rfl
@[simp] theorem State.setErr_freeCount : (s.setErr b).freeCount = s.freeCount := rfl
@[simp] theorem State.setErr_inbox : (s.setErr b).inbox = s.inbox := rfl
@[simp] theorem State.setErr_reply : (s.setErr b).reply = s.reply := rfl
@[simp] theorem State.setErr_n : (s.setErr b).n = s.n := rfl

end setErrFields

section setFatalFields
variable (s : State) (b : Bool)

@[simp] theorem State.setFatal_scalars : (s.setFatal b).scalars = s.scalars := rfl
@[simp] theorem State.setFatal_status : (s.setFatal b).status = { s.status with fatal := b } := rfl
@[simp] theorem State.setFatal_fault : (s.setFatal b).fault = s.fault := rfl
@[simp] theorem State.setFatal_finfo : (s.setFatal b).finfo = s.finfo := rfl
@[simp] theorem State.setFatal_q : (s.setFatal b).q = s.q := rfl
@[simp] theorem State.setFatal_logn : (s.setFatal b).logn = s.logn := rfl
@[simp] theorem State.setFatal_width : (s.setFatal b).width = s.width := rfl
@[simp] theorem State.setFatal_root2 : (s.setFatal b).root2 = s.root2 := rfl
@[simp] theorem State.setFatal_strat : (s.setFatal b).strat = s.strat := rfl
@[simp] theorem State.setFatal_icnt : (s.setFatal b).icnt = s.icnt := rfl
@[simp] theorem State.setFatal_resid : (s.setFatal b).resid = s.resid := rfl
@[simp] theorem State.setFatal_mem : (s.setFatal b).mem = s.mem := rfl
@[simp] theorem State.setFatal_freeCount : (s.setFatal b).freeCount = s.freeCount := rfl
@[simp] theorem State.setFatal_inbox : (s.setFatal b).inbox = s.inbox := rfl
@[simp] theorem State.setFatal_reply : (s.setFatal b).reply = s.reply := rfl
@[simp] theorem State.setFatal_n : (s.setFatal b).n = s.n := rfl

end setFatalFields

section setZFields
variable (s : State) (b : Bool)

@[simp] theorem State.setZ_scalars : (s.setZ b).scalars = s.scalars := rfl
@[simp] theorem State.setZ_status : (s.setZ b).status = { s.status with z := b } := rfl
@[simp] theorem State.setZ_fault : (s.setZ b).fault = s.fault := rfl
@[simp] theorem State.setZ_finfo : (s.setZ b).finfo = s.finfo := rfl
@[simp] theorem State.setZ_q : (s.setZ b).q = s.q := rfl
@[simp] theorem State.setZ_logn : (s.setZ b).logn = s.logn := rfl
@[simp] theorem State.setZ_width : (s.setZ b).width = s.width := rfl
@[simp] theorem State.setZ_root2 : (s.setZ b).root2 = s.root2 := rfl
@[simp] theorem State.setZ_strat : (s.setZ b).strat = s.strat := rfl
@[simp] theorem State.setZ_icnt : (s.setZ b).icnt = s.icnt := rfl
@[simp] theorem State.setZ_resid : (s.setZ b).resid = s.resid := rfl
@[simp] theorem State.setZ_mem : (s.setZ b).mem = s.mem := rfl
@[simp] theorem State.setZ_freeCount : (s.setZ b).freeCount = s.freeCount := rfl
@[simp] theorem State.setZ_inbox : (s.setZ b).inbox = s.inbox := rfl
@[simp] theorem State.setZ_reply : (s.setZ b).reply = s.reply := rfl
@[simp] theorem State.setZ_n : (s.setZ b).n = s.n := rfl

end setZFields

section Resets
variable (s : State)

@[simp] theorem softReset_scalars : (softReset s).scalars = s.scalars := rfl
@[simp] theorem softReset_status : (softReset s).status = Status.reset := rfl
@[simp] theorem softReset_fault : (softReset s).fault = 0#64 := rfl
@[simp] theorem softReset_finfo : (softReset s).finfo = 0#64 := rfl
@[simp] theorem softReset_q : (softReset s).q = 0#64 := rfl
@[simp] theorem softReset_logn : (softReset s).logn = 0#5 := rfl
@[simp] theorem softReset_width : (softReset s).width = 0#64 := rfl
@[simp] theorem softReset_root2 : (softReset s).root2 = 0#64 := rfl
@[simp] theorem softReset_strat : (softReset s).strat = .none := rfl
@[simp] theorem softReset_icnt : (softReset s).icnt = 0#64 := rfl
@[simp] theorem softReset_resid : (softReset s).resid = 0#64 := rfl
@[simp] theorem softReset_mem : (softReset s).mem = Memory.empty := rfl
@[simp] theorem softReset_freeCount : (softReset s).freeCount = s.freeCount := rfl
@[simp] theorem softReset_inbox : (softReset s).inbox = s.inbox := rfl
@[simp] theorem softReset_reply : (softReset s).reply = s.reply := rfl
@[simp] theorem hardReset_scalars : (hardReset s).scalars = Vector.ofFn (fun i : Fin 16 => Config.scalarAfterReset s.freeCount i.val) := rfl
@[simp] theorem hardReset_status : (hardReset s).status = Status.reset := rfl
@[simp] theorem hardReset_fault : (hardReset s).fault = 0#64 := rfl
@[simp] theorem hardReset_finfo : (hardReset s).finfo = 0#64 := rfl
@[simp] theorem hardReset_q : (hardReset s).q = 0#64 := rfl
@[simp] theorem hardReset_logn : (hardReset s).logn = 0#5 := rfl
@[simp] theorem hardReset_width : (hardReset s).width = 0#64 := rfl
@[simp] theorem hardReset_root2 : (hardReset s).root2 = 0#64 := rfl
@[simp] theorem hardReset_strat : (hardReset s).strat = .none := rfl
@[simp] theorem hardReset_icnt : (hardReset s).icnt = 0#64 := rfl
@[simp] theorem hardReset_resid : (hardReset s).resid = 0#64 := rfl
@[simp] theorem hardReset_mem : (hardReset s).mem = Memory.empty := rfl
@[simp] theorem hardReset_freeCount : (hardReset s).freeCount = s.freeCount + 1 := rfl
@[simp] theorem hardReset_inbox : (hardReset s).inbox = s.inbox := rfl
@[simp] theorem hardReset_reply : (hardReset s).reply = s.reply := rfl

end Resets

section InitFields
variable (logn q root2 : Nat) (s : State)

@[simp] theorem initStart_scalars : (initStart logn q s).scalars = s.scalars := rfl
@[simp] theorem initStart_status : (initStart logn q s).status = { s.status with initok := false, fail := false, z := false } := rfl
@[simp] theorem initStart_fault : (initStart logn q s).fault = s.fault := rfl
@[simp] theorem initStart_finfo : (initStart logn q s).finfo = s.finfo := rfl
@[simp] theorem initStart_q : (initStart logn q s).q = wordOf q := rfl
@[simp] theorem initStart_logn : (initStart logn q s).logn = BitVec.ofNat 5 logn := rfl
@[simp] theorem initStart_width : (initStart logn q s).width = wordOf (q / 2 ^ logn) := rfl
@[simp] theorem initStart_root2 : (initStart logn q s).root2 = s.root2 := rfl
@[simp] theorem initStart_strat : (initStart logn q s).strat = .none := rfl
@[simp] theorem initStart_icnt : (initStart logn q s).icnt = 0#64 := rfl
@[simp] theorem initStart_resid : (initStart logn q s).resid = 0#64 := rfl
@[simp] theorem initStart_mem : (initStart logn q s).mem = Memory.empty := rfl
@[simp] theorem initStart_freeCount : (initStart logn q s).freeCount = s.freeCount := rfl
@[simp] theorem initStart_inbox : (initStart logn q s).inbox = s.inbox := rfl
@[simp] theorem initStart_reply : (initStart logn q s).reply = s.reply := rfl
@[simp] theorem initDone_scalars : (initDone logn q root2 s).scalars = s.scalars := rfl
@[simp] theorem initDone_status : (initDone logn q root2 s).status = { s.status with initok := true } := rfl
@[simp] theorem initDone_fault : (initDone logn q root2 s).fault = s.fault := rfl
@[simp] theorem initDone_finfo : (initDone logn q root2 s).finfo = s.finfo := rfl
@[simp] theorem initDone_q : (initDone logn q root2 s).q = s.q := rfl
@[simp] theorem initDone_logn : (initDone logn q root2 s).logn = s.logn := rfl
@[simp] theorem initDone_width : (initDone logn q root2 s).width = s.width := rfl
@[simp] theorem initDone_root2 : (initDone logn q root2 s).root2 = s.root2 := rfl
@[simp] theorem initDone_strat : (initDone logn q root2 s).strat = selectStrategy logn := rfl
@[simp] theorem initDone_icnt : (initDone logn q root2 s).icnt = s.icnt := rfl
@[simp] theorem initDone_resid : (initDone logn q root2 s).resid = s.resid := rfl
@[simp] theorem initDone_mem : (initDone logn q root2 s).mem = 
    { x := unwrittenX s.freeCount (2 ^ logn), w := weightTable root2 q (2 ^ logn), u := unweightTable root2 q (2 ^ logn),
      dw := digitTable q (2 ^ logn) } := rfl
@[simp] theorem initDone_freeCount : (initDone logn q root2 s).freeCount = s.freeCount + 1 := rfl
@[simp] theorem initDone_inbox : (initDone logn q root2 s).inbox = s.inbox := rfl
@[simp] theorem initDone_reply : (initDone logn q root2 s).reply = s.reply := rfl

end InitFields

section SeedFields
variable (s : State)

@[simp] theorem seedProc_scalars : (seedProc s).scalars = s.scalars := rfl
@[simp] theorem seedProc_status : (seedProc s).status = s.status := rfl
@[simp] theorem seedProc_fault : (seedProc s).fault = s.fault := rfl
@[simp] theorem seedProc_finfo : (seedProc s).finfo = s.finfo := rfl
@[simp] theorem seedProc_q : (seedProc s).q = s.q := rfl
@[simp] theorem seedProc_logn : (seedProc s).logn = s.logn := rfl
@[simp] theorem seedProc_width : (seedProc s).width = s.width := rfl
@[simp] theorem seedProc_root2 : (seedProc s).root2 = s.root2 := rfl
@[simp] theorem seedProc_strat : (seedProc s).strat = s.strat := rfl
@[simp] theorem seedProc_icnt : (seedProc s).icnt = 0#64 := rfl
@[simp] theorem seedProc_resid : (seedProc s).resid = s.resid := rfl
@[simp] theorem seedProc_mem : (seedProc s).mem = { s.mem with x := wordOf Config.SEED :: List.replicate (s.n - 1) 0#64 } := rfl
@[simp] theorem seedProc_freeCount : (seedProc s).freeCount = s.freeCount := rfl
@[simp] theorem seedProc_inbox : (seedProc s).inbox = s.inbox := rfl
@[simp] theorem seedProc_reply : (seedProc s).reply = s.reply := rfl

end SeedFields

end Sys2Proof.Machine
end

