-- ==== Sys2Proof/Laws/Widths.lean ====
section
/-! SUPPORT. The parameters of R6 that size the types, as the numerals `omega` computes with: the bound of each type and the
value of `wordOf`. -/

namespace Sys2Proof

/-- A word is below 2^64 (R6 `XLEN`). -/
theorem word_toNat_lt (v : Word) : v.toNat < 2 ^ 64 := v.isLt

/-- A digit-width cell is below 2^8 (R6 `DWBITS`). -/
theorem digit_toNat_lt (d : Digit) : d.toNat < 2 ^ 8 := d.isLt

/-- A command word is below 2^32 (R6 `CMDLEN`). -/
theorem command_toNat_lt (w : Command) : w.toNat < 2 ^ 32 := w.isLt

/-- A register number is below 16 (R6 `NSREG`). -/
theorem sreg_val_lt (r : SReg) : r.val < 16 := r.isLt

/-- `wordOf` reduces mod 2^64 (R15, R6 `XLEN`). -/
theorem toNat_wordOf (v : Nat) : (wordOf v).toNat = v % 2 ^ 64 := BitVec.toNat_ofNat ..

end Sys2Proof
end

