-- ==== Sys2Proof/Laws/Ops.lean ====
section
/-! SUPPORT. What the shared operations can do: scalar registers, the record of a fault, the fatal halt, and the operand
checks. -/

namespace Sys2Proof.Machine

/-- The written register reads back the value (R17, R22). -/
@[simp] theorem readS_writeS_same (s : State) (i : SReg) (v : Word) : (s.writeS i v).readS i = v := by
  simp [State.readS]

/-- Another register is unchanged (R17). -/
@[simp] theorem readS_writeS_other (s : State) (i j : SReg) (v : Word) (h : j ≠ i) :
    (s.writeS i v).readS j = s.readS j := by
  have hij : i.val ≠ j.val := fun e => h (Fin.ext e.symm)
  simp [State.readS, Vector.getElem_set_ne _ _ hij]

/-- Reading a register after a write of any register. -/
theorem readS_writeS (s : State) (i j : SReg) (v : Word) :
    (s.writeS i v).readS j = if j = i then v else s.readS j := by
  by_cases h : j = i
  · subst h; simp
  · simp [h]

/-- Two states whose scalar registers all read alike have the same scalar registers. -/
theorem scalars_ext {s t : State} (h : ∀ i, s.readS i = t.readS i) : s.scalars = t.scalars := by
  apply Vector.ext
  intro i hi
  exact h ⟨i, hi⟩

/-- A first fault is recorded (R243 b). -/
theorem raiseFault_first (code : FaultCode) (cmdw : Command) (info : Word) (s : State)
    (he : s.status.err = false) (hf : s.status.fatal = false) :
    raiseFault code cmdw info s =
      { s with status := { s.status with err := true }, fault := faultWord code cmdw, finfo := info } := by
  simp [raiseFault, he, hf, State.setErr]

/-- After a recorded fault or a fatal violation nothing is written (R243 b). -/
theorem raiseFault_later (code : FaultCode) (cmdw : Command) (info : Word) (s : State)
    (h : s.status.err = true ∨ s.status.fatal = true) : raiseFault code cmdw info s = s := by
  rcases h with h | h <;> simp [raiseFault, h]

/-- All that raising a fault can do (R243). -/
theorem raiseFault_cases (code : FaultCode) (cmdw : Command) (info : Word) (s : State) :
    raiseFault code cmdw info s = s ∨
    (s.status.err = false ∧ s.status.fatal = false ∧
      raiseFault code cmdw info s =
        { s with status := { s.status with err := true }, fault := faultWord code cmdw, finfo := info }) := by
  by_cases he : s.status.err = true
  · exact .inl (raiseFault_later _ _ _ _ (.inl he))
  · by_cases hf : s.status.fatal = true
    · exact .inl (raiseFault_later _ _ _ _ (.inr hf))
    · simp only [Bool.not_eq_true] at he hf
      exact .inr ⟨he, hf, raiseFault_first _ _ _ _ he hf⟩

/-- All that a fatal halt does (R245). -/
theorem fatalHalt_eq (code : FaultCode) (cmdw : Command) (info : Word) (s : State) :
    fatalHalt code cmdw info s =
      { s with
        status := { s.status with fatal := true, initok := false }
        strat := .none
        mem := Memory.empty
        fault := if s.status.err then s.fault else faultWord code cmdw
        finfo := if s.status.err then s.finfo else info } := by
  by_cases he : s.status.err = true <;> simp [fatalHalt, he, State.setFatal, State.setInitok]

section Checks
variable (cmdw : Command) (s : State) (rest : Outcome)

@[simp] theorem needInit_pass (h : s.status.initok = true) : needInit cmdw s rest = rest := by simp [needInit, h]

@[simp] theorem needInit_stop (h : s.status.initok = false) :
    needInit cmdw s rest = .next (raiseFault .notInit cmdw 0#64 s) := by simp [needInit, h, faultOut]

@[simp] theorem needField_pass (v : Word) (h : v.toNat < Config.P) : needField cmdw v s rest = rest := by
  simp [needField, isField, h]

@[simp] theorem needField_stop (v : Word) (h : ¬v.toNat < Config.P) :
    needField cmdw v s rest = .next (raiseFault .noncanon cmdw v s) := by simp [needField, isField, h, faultOut]

@[simp] theorem needIndex_pass (i : Nat) (h : i < s.n) : needIndex cmdw i s rest = rest := by simp [needIndex, h]

@[simp] theorem needIndex_stop (i : Nat) (h : ¬i < s.n) :
    needIndex cmdw i s rest = .next (raiseFault .indexRange cmdw (wordOf i) s) := by simp [needIndex, h, faultOut]

@[simp] theorem needArg_pass (ok : Bool) (v : Word) (h : ok = true) : needArg ok cmdw v s rest = rest := by
  simp [needArg, h]

@[simp] theorem needArg_stop (ok : Bool) (v : Word) (h : ok = false) :
    needArg ok cmdw v s rest = .next (raiseFault .badArg cmdw v s) := by simp [needArg, h, faultOut]

end Checks

/-- A check answers a next state only by its fault or by the rest of the meaning. -/
theorem needInit_cases (cmdw : Command) (s t : State) (rest : Outcome) (h : needInit cmdw s rest = .next t) :
    (s.status.initok = true ∧ rest = .next t) ∨
    (s.status.initok = false ∧ t = raiseFault .notInit cmdw 0#64 s) := by
  cases hi : s.status.initok <;> simp_all

/-- As `needInit_cases`, for the field check. -/
theorem needField_cases (cmdw : Command) (v : Word) (s t : State) (rest : Outcome)
    (h : needField cmdw v s rest = .next t) :
    (v.toNat < Config.P ∧ rest = .next t) ∨ (¬v.toNat < Config.P ∧ t = raiseFault .noncanon cmdw v s) := by
  by_cases hv : v.toNat < Config.P <;> simp_all

/-- As `needInit_cases`, for the index check. -/
theorem needIndex_cases (cmdw : Command) (i : Nat) (s t : State) (rest : Outcome)
    (h : needIndex cmdw i s rest = .next t) :
    (i < s.n ∧ rest = .next t) ∨ (¬i < s.n ∧ t = raiseFault .indexRange cmdw (wordOf i) s) := by
  by_cases hv : i < s.n <;> simp_all

/-- As `needInit_cases`, for the argument check. -/
theorem needArg_cases (ok : Bool) (cmdw : Command) (v : Word) (s t : State) (rest : Outcome)
    (h : needArg ok cmdw v s rest = .next t) :
    (ok = true ∧ rest = .next t) ∨ (ok = false ∧ t = raiseFault .badArg cmdw v s) := by
  cases ok <;> simp_all

/-- A load answers a next state only by a fault or by writing its register (R220). -/
theorem loadCell_cases (cmdw : Command) (rd : SReg) (idx : Nat) (v : Word) (s t : State)
    (h : loadCell cmdw rd idx v s = .next t) :
    (s.status.initok = true ∧ idx < s.n ∧ t = s.writeS rd v) ∨
    (s.status.initok = true ∧ ¬idx < s.n ∧ t = raiseFault .indexRange cmdw (wordOf idx) s) ∨
    (s.status.initok = false ∧ t = raiseFault .notInit cmdw 0#64 s) := by
  rcases needInit_cases _ _ _ _ h with ⟨hi, h⟩ | h
  · rcases needIndex_cases _ _ _ _ _ h with ⟨hx, h⟩ | ⟨hx, h⟩
    · simp only [Host.Outcome.next.injEq] at h
      exact .inl ⟨hi, hx, h.symm⟩
    · exact .inr (.inl ⟨hi, hx, h⟩)
  · exact .inr (.inr h)

/-- The length is positive: an initialised engine has at least one limb (R17). -/
@[simp] theorem State.n_pos (s : State) : 0 < s.n := Nat.two_pow_pos _

/-- RESIDUE_ALIAS is not 0, whatever its free value (R208 a). -/
theorem residueAlias_ne_zero : Config.residueAlias ≠ 0#64 := by
  intro h
  have h1 : (Config.residueAlias).toNat = 0 := by rw [h]; rfl
  have h2 := Config.residueAliasPred.isLt
  rw [Config.residueAlias, toNat_wordOf] at h1
  simp only [Config.XLEN] at h2
  omega

end Sys2Proof.Machine
end

