-- ==== Sys2Proof/Laws/Field.lean ====
section
/-! SUPPORT. One lemma per field function (R100 to R106): its value and its range. -/

namespace Sys2Proof.Machine

@[simp] theorem P_pos : 0 < Config.P := by decide

theorem P_lt : Config.P < 2 ^ 64 := by decide

/-- A word made of a field element holds that element. -/
theorem toNat_wordOf_of_lt {v : Nat} (h : v < Config.P) : (wordOf v).toNat = v := by
  have := P_lt
  rw [toNat_wordOf]
  omega

theorem fadd_lt (a b : Nat) : fadd a b < Config.P := Nat.mod_lt _ P_pos

theorem fmul_lt (a b : Nat) : fmul a b < Config.P := Nat.mod_lt _ P_pos

theorem fsqr_lt (a : Nat) : fsqr a < Config.P := Nat.mod_lt _ P_pos

theorem fred_lt (hi lo : Nat) : fred hi lo < Config.P := Nat.mod_lt _ P_pos

theorem fsub_lt (a b : Nat) : fsub a b < Config.P := by
  have h1 : (0 : Int) < Config.P := by decide
  have h2 := Int.emod_nonneg ((a : Int) - b) h1.ne'
  have h3 := Int.emod_lt_of_pos ((a : Int) - b) h1
  unfold fsub
  omega

/-- `fsub` on field elements: the difference, plus P when it is negative (R101). -/
theorem fsub_eq {a b : Nat} (ha : a < Config.P) (hb : b < Config.P) :
    fsub a b = if b ≤ a then a - b else a + Config.P - b := by
  unfold fsub
  split
  · next h =>
    rw [Int.emod_eq_of_lt (by omega) (by omega)]
    omega
  · next h =>
    have : ((a : Int) - b) % Config.P = (a : Int) - b + Config.P := by
      rw [← Int.add_emod_right, Int.emod_eq_of_lt (by omega) (by omega)]
    rw [this]
    omega

/-- The double-width product is reduced by `fred` (R102). -/
theorem fmul_eq_fred (a b : Nat) : fmul a b = fred (a * b / 2 ^ 64) (a * b % 2 ^ 64) := by
  unfold fmul fred
  rw [Nat.mul_comm (a * b / 2 ^ 64), Nat.div_add_mod]

theorem fpowBits_lt (bits x e : Nat) : fpowBits bits x e < Config.P := by
  induction bits generalizing x e with
  | zero => simp [fpowBits, Config.P]
  | succ bits ih =>
    simp only [fpowBits]
    split
    · decide
    · split
      · exact fmul_lt _ _
      · exact ih _ _

/-- Binary exponentiation computes the power mod P of an exponent that fits its bits (R105). -/
theorem fpowBits_eq (bits x e : Nat) (h : e < 2 ^ bits) : fpowBits bits x e = x ^ e % Config.P := by
  induction bits generalizing x e with
  | zero =>
    have : e = 0 := by simpa using h
    subst this
    simp [fpowBits, Config.P]
  | succ bits ih =>
    simp only [fpowBits]
    split
    · next he => subst he; simp [Config.P]
    · have hlt : e / 2 < 2 ^ bits := by omega
      have key : fpowBits bits (fsqr x) (e / 2) = (x * x) ^ (e / 2) % Config.P := by
        rw [ih _ _ hlt, fsqr, fmul, ← Nat.pow_mod]
      split
      · next hodd =>
        rw [key, fmul, ← Nat.mul_mod_mod, Nat.mod_mod, Nat.mul_mod_mod, ← Nat.pow_two, ← Nat.pow_mul,
          ← Nat.pow_succ']
        congr 2
        omega
      · next heven =>
        rw [key, ← Nat.pow_two, ← Nat.pow_mul]
        congr 2
        omega

/-- `fpow(x, e) = x^e mod P` for a 64-bit exponent (R105). -/
theorem fpow_eq (x e : Nat) (h : e < 2 ^ 64) : fpow x e = x ^ e % Config.P := fpowBits_eq 64 x e h

theorem fpow_lt (x e : Nat) : fpow x e < Config.P := fpowBits_lt 64 x e

/-- `finv(x) = x^(P - 2) mod P` (R106). -/
theorem finv_eq (x : Nat) : finv x = x ^ (Config.P - 2) % Config.P := fpow_eq x _ (by decide)

theorem finv_lt (x : Nat) : finv x < Config.P := fpow_lt x _

end Sys2Proof.Machine
end

