-- ==== Sys2Proof/Laws/Cells.lean ====
section
/-! SUPPORT. The cells of a memory: reading after writing, and that every memory operation keeps the canonical form
`Memory.wf` (R40 to R43). -/

namespace Sys2Proof.Machine

/-- The written cell reads back the value (R17). -/
theorem cell_set_same (l : List Word) (i : Nat) (v : Word) (h : i < l.length) : cell (l.set i v) i = v := by
  simp [cell, List.getD, h]

/-- Every other cell is unchanged (R17). -/
theorem cell_set_other (l : List Word) (i j : Nat) (v : Word) (h : j ≠ i) : cell (l.set i v) j = cell l j := by
  simp [cell, List.getD, List.getElem?_set_ne (Ne.symm h)]

/-- A cell that exists is the entry at its position. -/
theorem cell_eq_getElem (l : List Word) (i : Nat) (h : i < l.length) : cell l i = l[i] := by
  simp [cell, List.getD, h]

/-- Two memories of one length whose cells all read alike are equal. -/
theorem cells_ext {l m : List Word} (hl : l.length = m.length) (h : ∀ i, i < l.length → cell l i = cell m i) : l = m := by
  apply List.ext_getElem hl
  intro i h1 h2
  have := h i h1
  rwa [cell_eq_getElem l i h1, cell_eq_getElem m i h2] at this

theorem canonicalCells_iff (l : List Word) : canonicalCells l = true ↔ ∀ v ∈ l, v.toNat < Config.P := by
  simp [canonicalCells, isField, List.all_eq_true]

theorem canonicalCells_cell {l : List Word} (h : canonicalCells l = true) (i : Nat) : (cell l i).toNat < Config.P := by
  by_cases hi : i < l.length
  · rw [cell_eq_getElem l i hi]
    exact (canonicalCells_iff l).1 h _ (List.getElem_mem hi)
  · simp [cell, List.getD, Nat.le_of_not_lt hi]

theorem canonicalCells_set {l : List Word} (h : canonicalCells l = true) (i : Nat) {v : Word} (hv : v.toNat < Config.P) :
    canonicalCells (l.set i v) = true := by
  rw [canonicalCells_iff] at *
  intro a ha
  rcases List.mem_or_eq_of_mem_set ha with h1 | h1
  · exact h a h1
  · exact h1 ▸ hv

/-- A list of words made of field elements is canonical. -/
theorem canonicalCells_map {α : Type} (l : List α) (f : α → Nat) (h : ∀ a ∈ l, f a < Config.P) :
    canonicalCells (l.map (fun a => wordOf (f a))) = true := by
  rw [canonicalCells_iff]
  intro v hv
  obtain ⟨a, ha, rfl⟩ := List.mem_map.1 hv
  rw [toNat_wordOf_of_lt (h a ha)]
  exact h a ha

@[simp] theorem vectorMul_length (x w : List Word) : (vectorMul x w).length = min x.length w.length := by
  simp [vectorMul]

@[simp] theorem vectorSqr_length (x : List Word) : (vectorSqr x).length = x.length := by simp [vectorSqr]

/-- `vector_mul` cell by cell (R120). -/
theorem vectorMul_cell (x w : List Word) (i : Nat) (hx : i < x.length) (hw : i < w.length) :
    cell (vectorMul x w) i = wordOf (fmul (cell x i).toNat (cell w i).toNat) := by
  rw [cell_eq_getElem _ _ (by simp [hx, hw]), cell_eq_getElem x i hx, cell_eq_getElem w i hw]
  simp [vectorMul]

/-- `vector_sqr` cell by cell (R120). -/
theorem vectorSqr_cell (x : List Word) (i : Nat) (hx : i < x.length) :
    cell (vectorSqr x) i = wordOf (fsqr (cell x i).toNat) := by
  rw [cell_eq_getElem _ _ (by simp [hx]), cell_eq_getElem x i hx]
  simp [vectorSqr]

theorem vectorMul_canonical (x w : List Word) : canonicalCells (vectorMul x w) = true := by
  rw [canonicalCells_iff]
  intro v hv
  obtain ⟨i, hi, rfl⟩ := List.getElem_of_mem hv
  simp only [vectorMul, List.getElem_zipWith]
  rw [toNat_wordOf_of_lt (fmul_lt _ _)]
  exact fmul_lt _ _

theorem vectorSqr_canonical (x : List Word) : canonicalCells (vectorSqr x) = true :=
  canonicalCells_map x _ (fun a _ => fsqr_lt a.toNat)

@[simp] theorem transform_length (ω : Nat) (v : List Word) : (transform ω v).length = v.length := by simp [transform]

theorem powerSum_lt (y : Nat) (v : List Word) : powerSum y v < Config.P := by
  cases v with
  | nil => simp [powerSum, Config.P]
  | cons a v => exact fadd_lt _ _

/-- One output cell of a transform (R131): a sum of powers. -/
theorem transform_cell (ω : Nat) (v : List Word) (k : Nat) (h : k < v.length) :
    cell (transform ω v) k = wordOf (powerSum (fpow ω k) v) := by
  rw [cell_eq_getElem _ _ (by simp [h])]
  simp [transform]

theorem transform_canonical (ω : Nat) (v : List Word) : canonicalCells (transform ω v) = true :=
  canonicalCells_map _ _ (fun _ _ => powerSum_lt _ _)

/-- What the canonical form says, as propositions. -/
theorem Memory.wf_iff (m : Memory) :
    m.wf = true ↔ m.w.length = m.x.length ∧ m.u.length = m.x.length ∧ m.dw.length = m.x.length ∧
      canonicalCells m.x = true ∧ canonicalCells m.w = true ∧ canonicalCells m.u = true ∧ ∀ d ∈ m.dw, d.toNat ≤ 31 := by
  simp [Memory.wf, List.all_eq_true, and_assoc]

/-- The memories after reset have the canonical form. -/
theorem Memory.wf_empty : Memory.empty.wf = true := by decide

/-- A whole new X keeps the canonical form when it has as many cells, all canonical: every command that writes X. -/
theorem Memory.wf_setX {m : Memory} (h : m.wf = true) {l : List Word} (hl : l.length = m.x.length)
    (hc : canonicalCells l = true) : ({ m with x := l } : Memory).wf = true := by
  rw [Memory.wf_iff] at *
  exact ⟨h.1.trans hl.symm, h.2.1.trans hl.symm, h.2.2.1.trans hl.symm, hc, h.2.2.2.2⟩

/-- STX keeps the canonical form (R222). -/
theorem Memory.wf_set {m : Memory} (h : m.wf = true) (i : Nat) {v : Word} (hv : v.toNat < Config.P) :
    ({ m with x := m.x.set i v } : Memory).wf = true :=
  Memory.wf_setX h (by simp) (canonicalCells_set ((Memory.wf_iff m).1 h).2.2.2.1 i hv)

/-- VMULW and VMULU keep the canonical form (R124). -/
theorem Memory.wf_vectorMul {m : Memory} (h : m.wf = true) (t : List Word) (ht : t.length = m.x.length) :
    ({ m with x := vectorMul m.x t } : Memory).wf = true :=
  Memory.wf_setX h (by simp [ht]) (vectorMul_canonical _ _)

/-- VSQR keeps the canonical form (R124). -/
theorem Memory.wf_vectorSqr {m : Memory} (h : m.wf = true) : ({ m with x := vectorSqr m.x } : Memory).wf = true :=
  Memory.wf_setX h (by simp) (vectorSqr_canonical _)

/-- NTTF and NTTI keep the canonical form (R143). -/
theorem Memory.wf_transform {m : Memory} (h : m.wf = true) (ω : Nat) :
    ({ m with x := transform ω m.x } : Memory).wf = true :=
  Memory.wf_setX h (by simp) (transform_canonical _ _)

end Sys2Proof.Machine
end

