-- ==== Sys2Proof/Laws/Carry.lean ====
section
/-! SUPPORT. The limb steps (R181) and the loops over them: the value each step conserves, the bound it restores, that
`sub_step` is `add_step` of the negated borrow, and the lengths the loops keep. -/

namespace Sys2Proof.Machine

theorem two_pow_pos_int (d : Nat) : (0 : Int) < ((2 ^ d : Nat) : Int) := by exact_mod_cast Nat.two_pow_pos d

/-- The new limb of a step is below its width bound (R181), for widths that a DW cell of an engine holds. -/
theorem addStep_limb_lt (d : Nat) (x : Word) (c : Int) : (addStep d x c).1.toNat < 2 ^ d := by
  have h1 := Int.emod_nonneg ((x.toNat : Int) + c) (two_pow_pos_int d).ne'
  have h2 := Int.emod_lt_of_pos ((x.toNat : Int) + c) (two_pow_pos_int d)
  simp only [addStep, wordOf, BitVec.toNat_ofNat]
  refine lt_of_le_of_lt (Nat.mod_le _ _) ?_
  omega

/-- `x + c = new limb + 2^d * carry out` (R181), for a width at most 64. -/
theorem addStep_value (d : Nat) (hd : d ≤ 64) (x : Word) (c : Int) :
    ((addStep d x c).1.toNat : Int) + ((2 ^ d : Nat) : Int) * (addStep d x c).2 = x.toNat + c := by
  have h1 := Int.emod_nonneg ((x.toNat : Int) + c) (two_pow_pos_int d).ne'
  have h2 := Int.emod_lt_of_pos ((x.toNat : Int) + c) (two_pow_pos_int d)
  have h3 : (2 : Nat) ^ d ≤ 2 ^ 64 := Nat.pow_le_pow_right (by omega) hd
  have h4 := Int.emod_add_mul_ediv ((x.toNat : Int) + c) ((2 ^ d : Nat) : Int)
  simp only [addStep, toNat_wordOf]
  rw [Nat.mod_eq_of_lt (by omega)]
  omega

/-- A step on a limb below its bound: the carry out is `c / 2^d` rounded down or up (R181, R189). -/
theorem addStep_carry_bounds (d : Nat) (x : Word) (c : Int) (hx : x.toNat < 2 ^ d) :
    c / ((2 ^ d : Nat) : Int) ≤ (addStep d x c).2 ∧ (addStep d x c).2 ≤ (c + (2 ^ d : Nat) - 1) / ((2 ^ d : Nat) : Int) := by
  constructor
  · exact Int.ediv_le_ediv (two_pow_pos_int d) (by omega)
  · exact Int.ediv_le_ediv (two_pow_pos_int d) (by omega)

/-- `sub_step` is `add_step` of the negated borrow (R181). -/
theorem subStep_eq (d : Nat) (x : Word) (b : Int) :
    subStep d x b = ((addStep d x (-b)).1, -(addStep d x (-b)).2) := by
  simp [subStep, addStep, Int.sub_eq_add_neg]

/-- The subtracting loop is the adding loop of the negated amount (R187, R190). -/
theorem limbLoop_subStep (dw : List Digit) (n fuel : Nat) (x : List Word) (b : Int) (i : Nat) :
    limbLoop subStep dw n fuel x b i = limbLoop addStep dw n fuel x (-b) i := by
  induction fuel generalizing x b i with
  | zero => simp [limbLoop]
  | succ fuel ih =>
    simp only [limbLoop, neg_eq_zero]
    split
    · rfl
    · rw [ih, subStep_eq]
      simp

/-- SUB_PROC of b is ADD_PROC of -b: one analysis serves both (R187, R190). -/
theorem subProc_eq_addProc (dw : List Digit) (n : Nat) (x : List Word) (b : Int) (i : Nat) :
    subProc dw n x b i = addProc dw n x (-b) i := by
  simp [subProc, addProc, loopFuel, limbLoop_subStep]

/-- A carry of 0 changes nothing (R187, R190 corner cases). -/
@[simp] theorem limbLoop_zero (st : Nat → Word → Int → Word × Int) (dw : List Digit) (n fuel : Nat) (x : List Word)
    (i : Nat) : limbLoop st dw n fuel x 0 i = some x := by
  cases fuel <;> simp [limbLoop]

@[simp] theorem addProc_zero (dw : List Digit) (n : Nat) (x : List Word) (i : Nat) : addProc dw n x 0 i = some x := by
  simp [addProc]

@[simp] theorem subProc_zero (dw : List Digit) (n : Nat) (x : List Word) (i : Nat) : subProc dw n x 0 i = some x := by
  simp [subProc]

/-- More fuel never changes a result that a loop has reached. -/
theorem limbLoop_more_fuel (st : Nat → Word → Int → Word × Int) (dw : List Digit) (n fuel more : Nat) (x y : List Word)
    (c : Int) (i : Nat) (h : limbLoop st dw n fuel x c i = some y) :
    limbLoop st dw n (fuel + more) x c i = some y := by
  induction fuel generalizing x c i with
  | zero =>
    simp only [limbLoop] at h
    split at h
    · next hc => subst hc; simpa using h
    · cases h
  | succ fuel ih =>
    rw [Nat.succ_add]
    simp only [limbLoop] at *
    split
    · next hc => simpa [hc] using h
    · next hc => exact ih _ _ _ (by simpa [hc] using h)

/-- A loop over limbs keeps the number of limbs. -/
theorem limbLoop_length (st : Nat → Word → Int → Word × Int) (dw : List Digit) (n fuel : Nat) (x y : List Word) (c : Int)
    (i : Nat) (h : limbLoop st dw n fuel x c i = some y) : y.length = x.length := by
  induction fuel generalizing x c i with
  | zero =>
    simp only [limbLoop] at h
    split at h <;> simp_all
  | succ fuel ih =>
    simp only [limbLoop] at h
    split at h
    · simp_all
    · simpa using ih _ _ _ h

theorem addProc_length {dw : List Digit} {n : Nat} {x y : List Word} {c : Int} {i : Nat}
    (h : addProc dw n x c i = some y) : y.length = x.length := limbLoop_length _ _ _ _ _ _ _ _ h

theorem subProc_length {dw : List Digit} {n : Nat} {x y : List Word} {b : Int} {i : Nat}
    (h : subProc dw n x b i = some y) : y.length = x.length := limbLoop_length _ _ _ _ _ _ _ _ h

@[simp] theorem carryPass_length (x : List Word) (dw : List Digit) (c : Int) : (carryPass x dw c).1.length = x.length := by
  induction x generalizing dw c with
  | nil => cases dw <;> simp [carryPass]
  | cons a x ih => cases dw <;> simp [carryPass, ih]

theorem carryProc_length {dw : List Digit} {n : Nat} {x y : List Word} (h : carryProc dw n x = some y) :
    y.length = x.length := by
  simp only [carryProc] at h
  split at h
  · simpa using addProc_length h
  · simp only [Option.some.injEq] at h
    simp [← h]

/-- A command on X answers a next state only when its loop ends, and then only X changes (R182, R187 to R190). -/
theorem finishX_next {x : Option (List Word)} {s t : State} (h : finishX x s = .next t) :
    ∃ l, x = some l ∧ t = s.setX l := by
  cases x with
  | none => simp [finishX] at h
  | some l => exact ⟨l, rfl, by simpa [finishX] using h.symm⟩

/-- MUL changes X and ICNT only (R195). -/
theorem mulProc_some {s t : State} (h : mulProc s = some t) :
    ∃ l, mulX s.mem s.logn.toNat = some l ∧ t = (s.setX l).setIcnt (s.icnt + 1#64) := by
  unfold mulProc at h
  split at h
  · next l hl => exact ⟨l, hl, by simpa using h.symm⟩
  · cases h

/-! The carry operations keep the canonical form: every limb they write is below `2^31` when the digit widths are at most
31 (R43), and so a field element. -/

/-- A digit width read by index keeps a bound of the whole table; a missing cell reads as 0. -/
theorem digit_le {dw : List Digit} {b : Nat} (h : ∀ d ∈ dw, d.toNat ≤ b) (i : Nat) : digit dw i ≤ b := by
  unfold digit
  by_cases hi : i < dw.length
  · rw [List.getD_eq_getElem _ _ hi]
    exact h _ (List.getElem_mem hi)
  · rw [List.getD_eq_default _ _ (by omega)]
    exact Nat.zero_le _

/-- A step on a limb of at most 31 bits writes a field element (R40, R43). -/
theorem addStep_canonical {d : Nat} (hd : d ≤ 31) (x : Word) (c : Int) : (addStep d x c).1.toNat < Config.P := by
  have h1 := addStep_limb_lt d x c
  have h2 : (2 : Nat) ^ d ≤ 2 ^ 31 := Nat.pow_le_pow_right (by omega) hd
  have h3 : 2 ^ 31 < Config.P := by decide
  omega

/-- ADD_PROC keeps every cell a field element (R187, R40). -/
theorem addProc_canonical {dw : List Digit} {n : Nat} {x y : List Word} {c : Int} {i : Nat}
    (hd : ∀ d ∈ dw, d.toNat ≤ 31) (hx : canonicalCells x = true) (h : addProc dw n x c i = some y) :
    canonicalCells y = true := by
  unfold addProc at h
  generalize loopFuel n c = fuel at h
  induction fuel generalizing x c i with
  | zero =>
    simp only [limbLoop] at h
    split at h <;> simp_all
  | succ fuel ih =>
    simp only [limbLoop] at h
    split at h
    · simp_all
    · exact ih (canonicalCells_set hx i (addStep_canonical (digit_le hd i) _ _)) h

/-- SUB_PROC keeps every cell a field element (R190, R40). -/
theorem subProc_canonical {dw : List Digit} {n : Nat} {x y : List Word} {b : Int} {i : Nat}
    (hd : ∀ d ∈ dw, d.toNat ≤ 31) (hx : canonicalCells x = true) (h : subProc dw n x b i = some y) :
    canonicalCells y = true := addProc_canonical hd hx (subProc_eq_addProc .. ▸ h)

/-- The first pass of CARRY keeps every cell a field element (R182, R40). -/
theorem carryPass_canonical {x : List Word} {dw : List Digit} (c : Int) (hd : ∀ d ∈ dw, d.toNat ≤ 31)
    (hx : canonicalCells x = true) : canonicalCells (carryPass x dw c).1 = true := by
  rw [canonicalCells_iff] at *
  induction x generalizing dw c with
  | nil => cases dw <;> simp [carryPass]
  | cons a x ih =>
    cases dw with
    | nil => simpa [carryPass] using hx
    | cons d dw =>
      simp only [carryPass, List.forall_mem_cons] at *
      exact ⟨addStep_canonical hd.1 _ _, ih _ hd.2 hx.2⟩

/-- CARRY keeps every cell a field element (R182, R40). -/
theorem carryProc_canonical {dw : List Digit} {n : Nat} {x y : List Word} (hd : ∀ d ∈ dw, d.toNat ≤ 31)
    (hx : canonicalCells x = true) (h : carryProc dw n x = some y) : canonicalCells y = true := by
  simp only [carryProc] at h
  split at h
  · exact addProc_canonical hd (carryPass_canonical 0 hd hx) h
  · simp only [Option.some.injEq] at h
    exact h ▸ carryPass_canonical 0 hd hx

/-- ADD32 and ADD64 keep the canonical form of the memories (R187, R188). -/
theorem Memory.wf_addProc {m : Memory} (h : m.wf = true) {n i : Nat} {c : Int} {y : List Word}
    (hy : addProc m.dw n m.x c i = some y) : ({ m with x := y } : Memory).wf = true :=
  have hm := (Memory.wf_iff m).1 h
  Memory.wf_setX h (addProc_length hy) (addProc_canonical hm.2.2.2.2.2.2 hm.2.2.2.1 hy)

/-- SUB32 keeps the canonical form of the memories (R190). -/
theorem Memory.wf_subProc {m : Memory} (h : m.wf = true) {n i : Nat} {b : Int} {y : List Word}
    (hy : subProc m.dw n m.x b i = some y) : ({ m with x := y } : Memory).wf = true :=
  Memory.wf_addProc h (subProc_eq_addProc .. ▸ hy)

/-- CARRY keeps the canonical form of the memories (R182). -/
theorem Memory.wf_carryProc {m : Memory} (h : m.wf = true) {n : Nat} {y : List Word}
    (hy : carryProc m.dw n m.x = some y) : ({ m with x := y } : Memory).wf = true :=
  have hm := (Memory.wf_iff m).1 h
  Memory.wf_setX h (carryProc_length hy) (carryProc_canonical hm.2.2.2.2.2.2 hm.2.2.2.1 hy)

end Sys2Proof.Machine
end

