-- ==== Sys2Proof/Laws/Decode.lean ====
section
/-! SUPPORT. The fields of a command word as arithmetic, and of a packed word: what the decoder reads and the encoder
writes (R81, R89), so that later proofs are `omega` and no bit of a word is unfolded again. -/

namespace Sys2Proof

@[simp] theorem opField_toNat (w : Command) : (opField w).toNat = w.toNat / 2 ^ 24 := by
  have := command_toNat_lt w
  simp only [opField, BitVec.extractLsb'_toNat, Nat.shiftRight_eq_div_pow]
  omega

@[simp] theorem rdField_val (w : Command) : (rdField w).val = w.toNat / 2 ^ 20 % 16 := by
  simp only [rdField, BitVec.toFin_extractLsb', Fin.val_ofNat, Nat.shiftRight_eq_div_pow]

@[simp] theorem raField_val (w : Command) : (raField w).val = w.toNat / 2 ^ 16 % 16 := by
  simp only [raField, BitVec.toFin_extractLsb', Fin.val_ofNat, Nat.shiftRight_eq_div_pow]

@[simp] theorem rbField_val (w : Command) : (rbField w).val = w.toNat / 2 ^ 12 % 16 := by
  simp only [rbField, BitVec.toFin_extractLsb', Fin.val_ofNat, Nat.shiftRight_eq_div_pow]

@[simp] theorem imm12Field_eq (w : Command) : imm12Field w = w.toNat % 2 ^ 12 := by
  simp [imm12Field, BitVec.extractLsb'_toNat]

@[simp] theorem imm16Field_eq (w : Command) : imm16Field w = w.toNat % 2 ^ 16 := by
  simp [imm16Field, BitVec.extractLsb'_toNat]

/-- The number of a concatenation (R16): the first part is the more significant. -/
theorem append_toNat {n m : Nat} (a : BitVec n) (b : BitVec m) : (a ++ b).toNat = a.toNat * 2 ^ m + b.toNat := by
  rw [BitVec.toNat_append, Nat.shiftLeft_eq, Nat.mul_comm, ← Nat.two_pow_add_eq_or_of_lt b.isLt]

/-- The word `op 2^24 + rd 2^20 + ra 2^16 + rb 2^12 + imm12` (R89). -/
theorem packWord_toNat (op : BitVec 8) (rd ra rb : SReg) (imm12 : Nat) :
    (packWord op rd ra rb imm12).toNat =
      op.toNat * 2 ^ 24 + rd.val * 2 ^ 20 + ra.val * 2 ^ 16 + rb.val * 2 ^ 12 + imm12 % 2 ^ 12 := by
  have h2 := sreg_val_lt rd
  have h3 := sreg_val_lt ra
  have h4 := sreg_val_lt rb
  simp only [packWord, append_toNat, BitVec.toNat_ofNat]
  omega

/-- The word `op 2^24 + rd 2^20 + imm16` of format DI (R89). -/
theorem packWordDI_toNat (op : BitVec 8) (rd : SReg) (imm16 : Nat) :
    (packWordDI op rd imm16).toNat = op.toNat * 2 ^ 24 + rd.val * 2 ^ 20 + imm16 % 2 ^ 16 := by
  have h2 := sreg_val_lt rd
  simp only [packWordDI, append_toNat, BitVec.toNat_ofNat]
  omega

/-- The format check passes exactly when the must-be-zero bits are zero (R82, R87). -/
theorem checkFormat_ok {w : Command} {f : Format} {i j : Instr} (h : checkFormat w f i = .ok j) :
    w &&& f.mustBeZero = 0#32 ∧ j = i := by
  unfold checkFormat at h
  split at h
  · next hz => exact ⟨hz, by simpa using h.symm⟩
  · cases h

/-- A field whose bits a format says must be zero is zero when the format check passes (R82). -/
theorem field_zero_of_and {w m : Command} (lo len : Nat) (h : w &&& m = 0#32)
    (hm : ∀ i < len, m.getLsbD (lo + i) = true) : w.toNat / 2 ^ lo % 2 ^ len = 0 := by
  apply Nat.eq_of_testBit_eq
  intro i
  by_cases hi : i < len
  · have hb : w.getLsbD (lo + i) = false := by
      have := congrArg (fun v => BitVec.getLsbD v (lo + i)) h
      simpa [hm i hi] using this
    rw [BitVec.getLsbD, Nat.add_comm] at hb
    simp [Nat.testBit_mod_two_pow, Nat.testBit_div_two_pow, hi, hb]
  · simp [Nat.testBit_mod_two_pow, hi]

/-- The format check passes when every bit the format says must be zero is zero in the word (R82). -/
theorem and_eq_zero_of_bits {w m : Command} (h : ∀ i < 32, m.getLsbD i = true → w.getLsbD i = false) :
    w &&& m = 0#32 := by
  apply BitVec.eq_of_getLsbD_eq
  intro i hi
  cases hm : m.getLsbD i
  · simp [hm]
  · simp [h i hi hm]

/-- A bit of a field that is zero is zero. -/
theorem bit_false_of_field {w : Command} (lo len i : Nat) (h : w.toNat / 2 ^ lo % 2 ^ len = 0) (h1 : lo ≤ i)
    (h2 : i < lo + len) : w.getLsbD i = false := by
  have := congrArg (fun v => v.testBit (i - lo)) h
  have e : i - lo + lo = i := by omega
  simpa [Nat.testBit_mod_two_pow, Nat.testBit_div_two_pow, show i - lo < len by omega, e, BitVec.getLsbD] using this

/-- The opcode of a command (R85). -/
def Instr.opcode : Instr → Nat
  | .nop => 0x00
  | .sreset => 0x01
  | .ldi _ _ => 0x02
  | .rdcr _ _ => 0x03
  | .mov _ _ => 0x04
  | .fadd _ _ _ => 0x10
  | .fsub _ _ _ => 0x11
  | .fmul _ _ _ => 0x12
  | .fsqr _ _ => 0x13
  | .fred _ _ _ => 0x14
  | .fpow _ _ _ => 0x15
  | .finv _ _ => 0x16
  | .vmulw => 0x20
  | .vmulu => 0x21
  | .vsqr => 0x22
  | .nttf => 0x30
  | .ntti => 0x31
  | .init _ _ => 0x40
  | .autoinit _ => 0x41
  | .carry => 0x50
  | .add32 _ _ => 0x51
  | .add64 _ _ => 0x52
  | .sub32 _ _ => 0x53
  | .mul => 0x54
  | .seed => 0x55
  | .run _ => 0x56
  | .residue _ => 0x57
  | .ldx _ _ _ => 0x60
  | .stx _ _ _ => 0x61
  | .ldw _ _ _ => 0x62
  | .ldu _ _ _ => 0x63
  | .ldd _ _ _ => 0x64

end Sys2Proof
end

