-- ==== Sys2Proof/Laws/Engine.lean ====
section
/-! SUPPORT. What the operations of the Mersenne engine and of the sequencer can do (R64, R91, R195 to R207). -/

namespace Sys2Proof.Machine

/-- SEED_PROC writes X and ICNT only (R200). -/
theorem seedProc_eq (s : State) :
    seedProc s = { s with mem := { s.mem with x := 4#64 :: List.replicate (s.n - 1) 0#64 }, icnt := 0#64 } := rfl

/-- The seeded X has n limbs (R200). -/
theorem seedProc_length (s : State) : (seedProc s).mem.x.length = s.n := by
  have := s.n_pos
  simp [seedProc_eq]
  omega

/-- A command that ends answers the state it computed. -/
theorem finishState_next {o : Option State} {t : State} (h : finishState o = .next t) : o = some t := by
  cases o with
  | none => simp [finishState] at h
  | some u => simpa [finishState] using h

/-- One squaring more, seen from the front (R202). -/
theorem repeatMul_succ (count : Nat) (s : State) : repeatMul (count + 1) s = (mulProc s).bind (repeatMul count) := by
  simp only [repeatMul]
  cases mulProc s <;> rfl

/-- Repeated squaring changes X and ICNT only (R202, R195). -/
theorem repeatMul_some {count : Nat} {s t : State} (h : repeatMul count s = some t) :
    ∃ l, t = (s.setX l).setIcnt (s.icnt + BitVec.ofNat 64 count) := by
  induction count generalizing s with
  | zero => exact ⟨s.mem.x, by simpa [repeatMul, State.setX, State.setIcnt] using h.symm⟩
  | succ count ih =>
    rw [repeatMul_succ] at h
    obtain ⟨u, hu, h⟩ := Option.bind_eq_some_iff.mp h
    obtain ⟨l, -, rfl⟩ := mulProc_some hu
    obtain ⟨l', rfl⟩ := ih h
    refine ⟨l', ?_⟩
    simp only [State.setX, State.setIcnt, BitVec.ofNat_add, State.mk.injEq, true_and, and_true]
    ac_rfl

/-- MUL_PROC keeps the number of limbs when the tables have as many cells as X (R195). -/
theorem mulX_length {m : Memory} {logn : Nat} {l : List Word} (hw : m.w.length = m.x.length)
    (hu : m.u.length = m.x.length) (h : mulX m logn = some l) : l.length = m.x.length := by
  unfold mulX at h
  split at h
  · next x hx =>
    rw [subProc_length h, carryProc_length hx]
    simp [squareStages, vectorMul, vectorSqr, forward, inverse, transform, hw, hu]
  · cases h

/-- MUL_PROC keeps the canonical form of the memories (R195). -/
theorem Memory.wf_mulX {m : Memory} (h : m.wf = true) {logn : Nat} {l : List Word} (hl : mulX m logn = some l) :
    ({ m with x := l } : Memory).wf = true := by
  have hm := (Memory.wf_iff m).1 h
  refine Memory.wf_setX h (mulX_length hm.1 hm.2.1 hl) ?_
  unfold mulX at hl
  split at hl
  · next x hx =>
    exact subProc_canonical hm.2.2.2.2.2.2 (carryProc_canonical hm.2.2.2.2.2.2 (vectorMul_canonical _ _) hx) hl
  · cases hl

/-- SEED_PROC keeps the canonical form of memories of n cells (R200). -/
theorem Memory.wf_seedProc {s : State} (h : s.mem.wf = true) (hn : s.mem.x.length = s.n) :
    (seedProc s).mem.wf = true := by
  refine Memory.wf_setX h ((seedProc_length s).trans hn.symm) ?_
  rw [canonicalCells_iff, List.forall_mem_cons]
  exact ⟨by decide, fun v hv => by rw [List.eq_of_mem_replicate hv]; decide⟩

/-- All that a write to CMD can do (R64, R248): nothing on a halted engine, a recorded ILLEGAL_CMD, or the command. -/
theorem issue_cases (v : Word) (s : State) :
    (s.status.fatal = true ∧ commandWord v ≠ sresetWord ∧ issue v s = .next s) ∨
    issue v s = .next (raiseFault .illegalCmd (commandWord v) v s) ∨
    ((s.status.fatal = true → commandWord v = sresetWord) ∧ v.toNat < 2 ^ 32 ∧
      ∃ i, decode (commandWord v) = .ok i ∧ issue v s = exec i s) := by
  unfold issue
  by_cases hh : s.status.fatal = true ∧ commandWord v ≠ sresetWord
  · exact .inl ⟨hh.1, hh.2, by simp [hh.1, hh.2]⟩
  · have hc : (s.status.fatal && commandWord v != sresetWord) = false := by
      cases hf : s.status.fatal <;> simp_all
    simp only [hc, Bool.false_eq_true, if_false]
    by_cases hu : v.toNat < 2 ^ 32
    · have hz : upperZero v = true := decide_eq_true hu
      cases hd : decode (commandWord v) with
      | error e => exact .inr (.inl (by simp [hz, faultOut]))
      | ok i => exact .inr (.inr ⟨fun hf => Classical.byContradiction fun hne => hh ⟨hf, hne⟩, hu, i, rfl, by simp [hz]⟩)
    · have hz : upperZero v = false := decide_eq_false hu
      exact .inr (.inl (by simp [hz, faultOut]))

/-- All that a host move on an engine that is not busy can do (R62 to R68, R270). -/
theorem serveIdle_cases (m : HostMove) (s : State) :
    serveIdle m s = .next s ∨
    (∃ v, m = .write 0 v ∧ serveIdle m s = issue v s) ∨
    (∃ k v, serveIdle m s = .next (s.writeS k v)) ∨
    (∃ v, serveIdle m s = .next { s with reply := some v }) ∨
    (m = .reset ∧ serveIdle m s = .next (hardReset s)) := by
  cases m with
  | reset => exact .inr (.inr (.inr (.inr ⟨rfl, rfl⟩)))
  | narrow o b => exact .inl rfl
  | read o =>
    simp only [serveIdle]
    split
    · exact .inr (.inr (.inr (.inl ⟨_, rfl⟩)))
    · exact .inl rfl
  | write o v =>
    by_cases h8 : o % 8 = 0
    · by_cases h0 : o = 0
      · subst h0
        exact .inr (.inl ⟨v, rfl, by simp [serveIdle, hostWrite, hostRegister]⟩)
      · have hr : hostRegister o ≠ .cmd := by
          unfold hostRegister
          split
          · contradiction
          · split
            · simp
            · split <;> simp
        simp only [serveIdle, h8, if_true, hostWrite]
        split
        · contradiction
        · exact .inl rfl
        · exact .inr (.inr (.inl ⟨_, _, rfl⟩))
        · exact .inl rfl
    · exact .inl (by simp [serveIdle, h8])

end Sys2Proof.Machine
end

