-- ==== Sys2Proof/Laws/Frames.lean ====
section
/-! SUPPORT. The shared operations in the terms of the statements: the recorded fault and the two frames of Safety.lean. -/

namespace Sys2Proof.Machine

/-- The word of FAULT as a sum (R29). -/
theorem faultWord_eq (code : FaultCode) (cmdw : Command) :
    faultWord code cmdw = wordOf (cmdw.toNat * 2 ^ 32 + (faultCode code).toNat) := by
  apply BitVec.eq_of_toNat_eq
  have h1 := command_toNat_lt cmdw
  have h2 := (faultCode code).isLt
  rw [faultWord, append_toNat, append_toNat, toNat_wordOf, Nat.mod_eq_of_lt (by omega)]
  simp only [BitVec.toNat_ofNat]
  omega

/-- Raising a fault leaves the state that the statements name (R243). -/
theorem raiseFault_eq_faultState (code : FaultCode) (cmdw : Command) (info : Word) (s : State) :
    raiseFault code cmdw info s = faultState code cmdw info s := by
  unfold faultState
  split
  · next h => exact raiseFault_later _ _ _ _ h
  · next h => rw [raiseFault_first _ _ _ _ (by simp_all) (by simp_all), faultWord_eq]

/-- Writing a scalar register changes that register only (R22). -/
theorem onlyScalar_writeS (rd : SReg) (v : Word) (s : State) : OnlyScalar rd v s (s.writeS rd v) :=
  ⟨by simp, fun _ hr => by simp [hr], rfl⟩

/-- Writing as many limbs as there were changes X only. -/
theorem onlyX_setX {s : State} {l : List Word} (h : l.length = s.mem.x.length) : OnlyX s (s.setX l) := ⟨rfl, h⟩

end Sys2Proof.Machine
end

