-- ==== Sys2Proof/Laws/Init.lean ====
section
/-! SUPPORT. What the table builder's operations and INIT_PROC can do (R150 to R165). -/

namespace Sys2Proof.Machine

/-- The guard rejects a pair exactly when `2 width + log_n ≥ 61` (R151). -/
theorem guardRejects_iff (logn q : Nat) : guardRejects logn q = true ↔ 61 ≤ 2 * (q / 2 ^ logn) + logn :=
  decide_eq_true_iff

@[simp] theorem digitTable_length (q n : Nat) : (digitTable q n).length = n := by simp [digitTable]

@[simp] theorem weightTable_length (root2 q n : Nat) : (weightTable root2 q n).length = n := by simp [weightTable]

@[simp] theorem unweightTable_length (root2 q n : Nat) : (unweightTable root2 q n).length = n := by simp [unweightTable]

@[simp] theorem unwrittenX_length (k n : Nat) : (unwrittenX k n).length = n := by simp [unwrittenX]

/-- A digit width that passed the check of R156 is at most `width + 1`. -/
theorem limbWidth_le {q n width i : Nat} (h : widthOk q n width i = true) : limbWidth q n i ≤ width + 1 := by
  simp only [widthOk, Bool.or_eq_true, decide_eq_true_eq] at h
  unfold limbWidth
  omega

/-- The memories a successful INIT_PROC leaves have the canonical form (R160, R40 to R43). -/
theorem Memory.wf_initDone (logn q root2 : Nat) (s : State) (hg : guardRejects logn q = false)
    (hb : builderChecks q (2 ^ logn) (q / 2 ^ logn) = true) :
    (initDone logn q root2 s).mem.wf = true := by
  have hw : ∀ i, weightAt root2 q (2 ^ logn) i < Config.P := by
    intro i
    unfold weightAt
    split
    · decide
    · exact fpow_lt _ _
  have hu : ∀ i, unweightAt root2 q (2 ^ logn) i < Config.P := by
    intro i
    unfold unweightAt
    split <;> exact finv_lt _
  have hq : 2 * (q / 2 ^ logn) + logn < 61 := by
    rw [Bool.eq_false_iff, Ne, guardRejects_iff] at hg
    omega
  rw [Memory.wf_iff]
  refine ⟨by simp [initDone], by simp [initDone], by simp [initDone], canonicalCells_map _ _ fun i _ => Nat.mod_lt _ P_pos,
    canonicalCells_map _ _ fun i _ => hw i, canonicalCells_map _ _ fun i _ => hu i, fun d hd => ?_⟩
  obtain ⟨i, hi, rfl⟩ := List.mem_map.1 hd
  simp only [builderChecks, Bool.and_eq_true, List.all_eq_true] at hb
  have hd := limbWidth_le (hb.2 i hi)
  exact (Nat.mod_le _ _).trans (by omega)

/-- All that INIT_PROC can do (R160): the guard's failure, the fatal root, the builder's success or failure. -/
theorem initProc_cases (cmdw : Command) (logn q : Nat) (s : State) :
    (guardRejects logn q = true ∧ initProc cmdw logn q s = (.failed, (initStart logn q s).setFail true)) ∨
    (guardRejects logn q = false ∧ fpow (rootTwo (2 ^ logn)) (2 ^ logn) ≠ 2 ∧
      initProc cmdw logn q s = (.fatal, fatalHalt .fatalRoot2 cmdw (wordOf (rootTwo (2 ^ logn)))
        { initStart logn q s with root2 := wordOf (rootTwo (2 ^ logn)) })) ∨
    (guardRejects logn q = false ∧ fpow (rootTwo (2 ^ logn)) (2 ^ logn) = 2 ∧
      builderChecks q (2 ^ logn) (q / 2 ^ logn) = true ∧
      initProc cmdw logn q s = (.success, initDone logn q (rootTwo (2 ^ logn))
        { initStart logn q s with root2 := wordOf (rootTwo (2 ^ logn)) })) ∨
    (guardRejects logn q = false ∧ fpow (rootTwo (2 ^ logn)) (2 ^ logn) = 2 ∧
      builderChecks q (2 ^ logn) (q / 2 ^ logn) = false ∧
      initProc cmdw logn q s =
        (.failed, ({ initStart logn q s with root2 := wordOf (rootTwo (2 ^ logn)) } : State).setFail true)) := by
  simp only [initProc]
  cases hg : guardRejects logn q with
  | true => exact .inl ⟨rfl, by simp⟩
  | false =>
    by_cases hr : fpow (rootTwo (2 ^ logn)) (2 ^ logn) = 2
    · cases hb : builderChecks q (2 ^ logn) (q / 2 ^ logn) with
      | true => exact .inr (.inr (.inl ⟨rfl, hr, rfl, by simp [hr]⟩))
      | false => exact .inr (.inr (.inr ⟨rfl, hr, rfl, by simp [hr]⟩))
    · exact .inr (.inl ⟨rfl, hr, by simp [hr]⟩)

/-- A size the attempt fails at is passed over by AUTOINIT (R165). -/
theorem autoInit_failed {cmdw : Command} {q logn : Nat} {s : State} (rest : List Nat)
    (h : (initProc cmdw logn q s).1 = .failed) :
    autoInit cmdw q (logn :: rest) s = autoInit cmdw q rest (initProc cmdw logn q s).2 := by
  simp only [autoInit]
  split <;> simp_all

/-- A success or a fatal violation ends AUTOINIT (R165). -/
theorem autoInit_ends {cmdw : Command} {q logn : Nat} {s : State} (rest : List Nat)
    (h : (initProc cmdw logn q s).1 ≠ .failed) :
    autoInit cmdw q (logn :: rest) s = (initProc cmdw logn q s).2 := by
  simp only [autoInit]
  split <;> simp_all

/-- Whatever every attempt at a listed size and the final fatal halt give holds of what AUTOINIT leaves (R165). -/
theorem autoInit_induction {Pr : State → Prop} {cmdw : Command} {q : Nat} (sizes : List Nat) (s : State)
    (hp : Pr s) (hi : ∀ l ∈ sizes, ∀ u, Pr u → Pr (initProc cmdw l q u).2)
    (hf : ∀ u, Pr u → Pr (fatalHalt .fatalExhausted cmdw (wordOf q) u)) : Pr (autoInit cmdw q sizes s) := by
  induction sizes generalizing s with
  | nil => exact hf s hp
  | cons l rest ih =>
    have h1 : Pr (initProc cmdw l q s).2 := hi l (by simp) s hp
    by_cases h : (initProc cmdw l q s).1 = .failed
    · rw [autoInit_failed rest h]
      exact ih _ h1 (fun l' hl' => hi l' (by simp [hl']))
    · rw [autoInit_ends rest h]
      exact h1

/-- INIT answers a next state only by a fault or by INIT_PROC (R160). -/
theorem execInit_cases {ra rb : SReg} {s t : State} (h : execInit ra rb s = .next t) :
    t = raiseFault .badArg (encode (.init ra rb)) (s.readS ra) s ∨
    t = raiseFault .badArg (encode (.init ra rb)) (s.readS rb) s ∨
    ((s.readS ra).toNat ≤ 26 ∧ 2 ≤ (s.readS rb).toNat ∧
      t = (initProc (encode (.init ra rb)) (s.readS ra).toNat (s.readS rb).toNat s).2) := by
  rcases needArg_cases _ _ _ _ _ _ h with ⟨h1, h⟩ | ⟨_, h⟩
  · rcases needArg_cases _ _ _ _ _ _ h with ⟨h2, h⟩ | ⟨_, h⟩
    · exact .inr (.inr ⟨of_decide_eq_true h1, of_decide_eq_true h2, by simpa using h.symm⟩)
    · exact .inr (.inl h)
  · exact .inl h

/-- AUTOINIT answers a next state only by a fault or by its retry loop (R165). -/
theorem execAutoinit_cases {ra : SReg} {s t : State} (h : execAutoinit ra s = .next t) :
    t = raiseFault .badArg (encode (.autoinit ra)) (s.readS ra) s ∨
    (2 ≤ (s.readS ra).toNat ∧ t = autoInit (encode (.autoinit ra)) (s.readS ra).toNat (List.range 27) s) := by
  rcases needArg_cases _ _ _ _ _ _ h with ⟨h1, h⟩ | ⟨_, h⟩
  · exact .inr ⟨by simpa using h1, by simpa [Config.MAX_LOG_N] using h.symm⟩
  · exact .inl h

end Sys2Proof.Machine
end

