-- ==== Sys2Proof/Laws/PerInstr.lean ====
section
/-! SUPPORT. The per-instruction family `OpcodeByte`: the word of a command carries its opcode in bits 31:24 (R81, R85),
whatever its operands. -/

namespace Sys2Proof.Laws.OpcodeByte

/-- Bits 31:24 of the command's word are its opcode (R81, R85). -/
def Statement (i : Instr) : Prop := (opField (encode i)).toNat = i.opcode

/-- The opcode byte of a packed word. -/
theorem packed (op : BitVec 8) (rd ra rb : SReg) (imm12 : Nat) :
    (opField (packWord op rd ra rb imm12)).toNat = op.toNat := by
  have h1 := sreg_val_lt rd
  have h2 := sreg_val_lt ra
  have h3 := sreg_val_lt rb
  rw [opField_toNat, packWord_toNat]
  omega

/-- The opcode byte of a packed word of format DI. -/
theorem packedDI (op : BitVec 8) (rd : SReg) (imm16 : Nat) : (opField (packWordDI op rd imm16)).toNat = op.toNat := by
  have h1 := sreg_val_lt rd
  rw [opField_toNat, packWordDI_toNat]
  omega

theorem nop : Statement .nop := packed _ _ _ _ _
theorem sreset : Statement .sreset := packed _ _ _ _ _
theorem ldi (rd : SReg) (imm16 : Nat) : Statement (.ldi rd imm16) := packedDI _ _ _
theorem rdcr (rd : SReg) (imm12 : Nat) : Statement (.rdcr rd imm12) := packed _ _ _ _ _
theorem mov (rd ra : SReg) : Statement (.mov rd ra) := packed _ _ _ _ _
theorem fadd (rd ra rb : SReg) : Statement (.fadd rd ra rb) := packed _ _ _ _ _
theorem fsub (rd ra rb : SReg) : Statement (.fsub rd ra rb) := packed _ _ _ _ _
theorem fmul (rd ra rb : SReg) : Statement (.fmul rd ra rb) := packed _ _ _ _ _
theorem fsqr (rd ra : SReg) : Statement (.fsqr rd ra) := packed _ _ _ _ _
theorem fred (rd ra rb : SReg) : Statement (.fred rd ra rb) := packed _ _ _ _ _
theorem fpow (rd ra rb : SReg) : Statement (.fpow rd ra rb) := packed _ _ _ _ _
theorem finv (rd ra : SReg) : Statement (.finv rd ra) := packed _ _ _ _ _
theorem vmulw : Statement .vmulw := packed _ _ _ _ _
theorem vmulu : Statement .vmulu := packed _ _ _ _ _
theorem vsqr : Statement .vsqr := packed _ _ _ _ _
theorem nttf : Statement .nttf := packed _ _ _ _ _
theorem ntti : Statement .ntti := packed _ _ _ _ _
theorem init (ra rb : SReg) : Statement (.init ra rb) := packed _ _ _ _ _
theorem autoinit (ra : SReg) : Statement (.autoinit ra) := packed _ _ _ _ _
theorem carry : Statement .carry := packed _ _ _ _ _
theorem add32 (ra rb : SReg) : Statement (.add32 ra rb) := packed _ _ _ _ _
theorem add64 (ra rb : SReg) : Statement (.add64 ra rb) := packed _ _ _ _ _
theorem sub32 (ra rb : SReg) : Statement (.sub32 ra rb) := packed _ _ _ _ _
theorem mul : Statement .mul := packed _ _ _ _ _
theorem seed : Statement .seed := packed _ _ _ _ _
theorem run (ra : SReg) : Statement (.run ra) := packed _ _ _ _ _
theorem residue (rd : SReg) : Statement (.residue rd) := packed _ _ _ _ _
theorem ldx (rd ra : SReg) (imm12 : Nat) : Statement (.ldx rd ra imm12) := packed _ _ _ _ _
theorem stx (ra rb : SReg) (imm12 : Nat) : Statement (.stx ra rb imm12) := packed _ _ _ _ _
theorem ldw (rd ra : SReg) (imm12 : Nat) : Statement (.ldw rd ra imm12) := packed _ _ _ _ _
theorem ldu (rd ra : SReg) (imm12 : Nat) : Statement (.ldu rd ra imm12) := packed _ _ _ _ _
theorem ldd (rd ra : SReg) (imm12 : Nat) : Statement (.ldd rd ra imm12) := packed _ _ _ _ _

end Sys2Proof.Laws.OpcodeByte
end

