-- ==== Sys2Proof/Tests/Slice0.lean ====
section
/-! SUPPORT. Tests.  Expected results are the spec's: the encodings of R81, R85 and R89, the vectors of 95_test_vectors.md
(named in each comment) and the examples of the rules.  The last part gives a witness for the hypotheses of every
obligation that has some. -/

namespace Sys2Proof.Tests

open Sys2Proof.Machine

set_option Elab.async false

/-! ### WellFormed refuses an immediate that does not fit its field (R81) -/

theorem test_ldi_imm_too_wide : (Instr.ldi 0 0x10000).wellFormed = false := by decide
theorem test_rdcr_imm_too_wide : (Instr.rdcr 0 0x1000).wellFormed = false := by decide
theorem test_ldx_imm_too_wide : (Instr.ldx 0 1 0x1000).wellFormed = false := by decide
theorem test_stx_imm_too_wide : (Instr.stx 0 1 0x1000).wellFormed = false := by decide
theorem test_ldw_imm_too_wide : (Instr.ldw 0 1 0x1000).wellFormed = false := by decide
theorem test_ldu_imm_too_wide : (Instr.ldu 0 1 0x1000).wellFormed = false := by decide
theorem test_ldd_imm_too_wide : (Instr.ldd 0 1 0x1000).wellFormed = false := by decide
theorem test_widest_imms_fit : (Instr.ldi 0 0xFFFF).wellFormed = true ∧ (Instr.ldx 0 1 0xFFF).wellFormed = true := by decide

/-! ### Decoding: every command's word, written out from R81 and R85 (most stand in section 2.10, 2.11 or 3) -/

theorem test_decode_nop : decode 0x00000000#32 = .ok .nop := by rfl
theorem test_decode_sreset : decode 0x01000000#32 = .ok .sreset := by rfl
theorem test_decode_ldi : decode 0x0230FFFF#32 = .ok (.ldi 3 0xFFFF) := by rfl
theorem test_decode_rdcr : decode 0x0310000C#32 = .ok (.rdcr 1 12) := by rfl
theorem test_decode_mov : decode 0x04210000#32 = .ok (.mov 2 1) := by rfl
theorem test_decode_fadd : decode 0x10A96000#32 = .ok (.fadd 10 9 6) := by rfl
theorem test_decode_fsub : decode 0x11976000#32 = .ok (.fsub 9 7 6) := by rfl
theorem test_decode_fmul : decode 0x12653000#32 = .ok (.fmul 6 5 3) := by rfl
theorem test_decode_fsqr : decode 0x13E10000#32 = .ok (.fsqr 14 1) := by rfl
theorem test_decode_fred : decode 0x14123000#32 = .ok (.fred 1 2 3) := by rfl
theorem test_decode_fpow : decode 0x15423000#32 = .ok (.fpow 4 2 3) := by rfl
theorem test_decode_finv : decode 0x16870000#32 = .ok (.finv 8 7) := by rfl
theorem test_decode_vmulw : decode 0x20000000#32 = .ok .vmulw := by rfl
theorem test_decode_vmulu : decode 0x21000000#32 = .ok .vmulu := by rfl
theorem test_decode_vsqr : decode 0x22000000#32 = .ok .vsqr := by rfl
theorem test_decode_nttf : decode 0x30000000#32 = .ok .nttf := by rfl
theorem test_decode_ntti : decode 0x31000000#32 = .ok .ntti := by rfl
theorem test_decode_init : decode 0x40023000#32 = .ok (.init 2 3) := by rfl
theorem test_decode_autoinit : decode 0x41000000#32 = .ok (.autoinit 0) := by rfl
theorem test_decode_carry : decode 0x50000000#32 = .ok .carry := by rfl
theorem test_decode_add32 : decode 0x51067000#32 = .ok (.add32 6 7) := by rfl
theorem test_decode_add64 : decode 0x5201F000#32 = .ok (.add64 1 15) := by rfl
theorem test_decode_sub32 : decode 0x53064000#32 = .ok (.sub32 6 4) := by rfl
theorem test_decode_mul : decode 0x54000000#32 = .ok .mul := by rfl
theorem test_decode_seed : decode 0x55000000#32 = .ok .seed := by rfl
theorem test_decode_run : decode 0x56010000#32 = .ok (.run 1) := by rfl
theorem test_decode_residue : decode 0x57C00000#32 = .ok (.residue 12) := by rfl
theorem test_decode_ldx : decode 0x60820005#32 = .ok (.ldx 8 2 5) := by rfl
theorem test_decode_stx : decode 0x61023FFF#32 = .ok (.stx 2 3 0xFFF) := by rfl
theorem test_decode_ldw : decode 0x62320001#32 = .ok (.ldw 3 2 1) := by rfl
theorem test_decode_ldu : decode 0x63320001#32 = .ok (.ldu 3 2 1) := by rfl
theorem test_decode_ldd : decode 0x64320004#32 = .ok (.ldd 3 2 4) := by rfl

/-- V-D-2: MUL with a must-be-zero bit set. -/
theorem test_decode_mul_mbz : decode 0x54000001#32 = .error (.mustBeZero .z) := by rfl
/-- V-D-1: an unused opcode. -/
theorem test_decode_unused_op : decode 0x05000000#32 = .error (.unknownOpcode 5#8) := by rfl
/-- R82: ADD32 with a bit of the rd position set. -/
theorem test_decode_add32_mbz : decode 0x51167000#32 = .error (.mustBeZero .ab) := by rfl
/-- R89: `STX s5, s4, 3` is 0x61045003, the data register first in the syntax. -/
theorem test_encode_stx : encode (.stx 4 5 3) = 0x61045003#32 := by decide
/-- R89: `LDI s0, 127`. -/
theorem test_encode_ldi : encode (.ldi 0 127) = 0x0200007F#32 := by decide
/-- The host's reading of a table word. -/
theorem test_decode_table_word : decodeTableWord 32 0x12201000 = some (.fmul 2 0 1) := by rfl

/-! ### Helpers -/

/-- The next state of an outcome. -/
def nextOf : Outcome → Option State
  | .next t => some t
  | .fault _ => none
  | .refused _ => none

/-- The reset state with S1 and S2 written. -/
def regs (a b : Word) : State := (State.reset.writeS 1 a).writeS 2 b

/-- The engine of INIT(l, q) with the given limbs and S1, S2 written. -/
def engine (l q : Nat) (x : List Word) (a b : Word) : State :=
  ((((initProc 0#32 l q State.reset).2.setX x).writeS 1 a).writeS 2 b)

/-- S3 after a command. -/
def s3After (i : Instr) (s : State) : Option Word := (nextOf (exec i s)).map (fun t => t.readS 3)

/-- X after a command. -/
def xAfter (i : Instr) (s : State) : Option (List Word) := (nextOf (exec i s)).map (fun t => t.mem.x)

/-- STATUS, FAULT and FINFO after a command. -/
def recordAfter (i : Instr) (s : State) : Option (Word × Word × Word) :=
  (nextOf (exec i s)).map (fun t => (statusWord t.status, t.fault, t.finfo))

/-- One step on a CMD write from the state. -/
def issueStep (w : Word) (s : State) : Option State := nextOf (step { s with inbox := [.write 0 w] })

/-! ### Modular kernel (section 2.1) -/

/-- V-K-2. -/
theorem test_fadd_wide_sum : s3After (.fadd 3 1 2) (regs 0xFFFFFFFF00000000 0xFFFFFFFF00000000) = some 0xFFFFFFFEFFFFFFFF := by
  decide +kernel
/-- V-K-4, with the record that R29 and R89 give. -/
theorem test_fadd_noncanon : recordAfter (.fadd 3 1 2) (regs 0xFFFFFFFF00000001 1) =
    some (0x08, 0x1031200000000005, 0xFFFFFFFF00000001) := by decide +kernel
/-- V-K-5. -/
theorem test_fsub_wraps : s3After (.fsub 3 1 2) (regs 0 1) = some 0xFFFFFFFF00000000 := by decide +kernel
/-- V-K-7. -/
theorem test_fsub_noncanon : recordAfter (.fsub 3 1 2) (regs 1 0xFFFFFFFF00000001) =
    some (0x08, 0x1131200000000005, 0xFFFFFFFF00000001) := by decide +kernel
/-- V-K-10. -/
theorem test_fmul : s3After (.fmul 3 1 2) (regs 0x123456789ABCDEF0 0xFEDCBA9876543210) = some 0xFAEAFD1F6C7BBAD4 := by
  decide +kernel
/-- V-K-11: S[ra] is reported first. -/
theorem test_fmul_first_operand : recordAfter (.fmul 3 1 2) (regs 0xFFFFFFFFFFFFFFFF 0xFFFFFFFF00000001) =
    some (0x08, 0x1231200000000005, 0xFFFFFFFFFFFFFFFF) := by decide +kernel
/-- V-K-13. -/
theorem test_fsqr : s3After (.fsqr 3 1) (regs 0x00000000FFFFFFFF 0) = some 0xFFFFFFFE00000001 := by decide +kernel
/-- V-K-15: S[ra] is the low half. -/
theorem test_fred_halves : s3After (.fred 3 1 2) (regs 0 1) = some 0x00000000FFFFFFFF := by decide +kernel
/-- V-K-18. -/
theorem test_fred_canonicalises : s3After (.fred 3 1 2) (regs 0xFFFFFFFF00000001 0) = some 0 := by decide +kernel
/-- V-K-19f. -/
theorem test_fpow_root2 : s3After (.fpow 3 1 2) (regs 7 0x00D5555554800000) = some 0x2D4E78439F248617 := by decide +kernel
/-- V-K-19d. -/
theorem test_fpow_zero_zero : s3After (.fpow 3 1 2) (regs 0 0) = some 1 := by decide +kernel
/-- V-K-22. -/
theorem test_finv : s3After (.finv 3 1) (regs 7 0) = some 0x249249246DB6DB6E := by decide +kernel
/-- P4: FINV of 0 (there `FINV s8, s7`; here s3, s1). -/
theorem test_finv_zero : recordAfter (.finv 3 1) (regs 0 0) = some (0x08, 0x1631000000000006, 0) := by decide +kernel

/-! ### Vector operations and transform (sections 2.2, 2.3) -/

/-- V-V-1. -/
theorem test_vmulw : xAfter .vmulw (engine 2 61 [1, 2, 3, 4] 0 0) =
    some [1, 0x85BDA2E586EBC25B, 0x000002FFFCFFFD00, 0x05B5B114FC207D1C] := by decide +kernel
/-- V-V-2. -/
theorem test_vmulu : xAfter .vmulu (engine 2 61 [1, 0x85BDA2E586EBC25B, 0x000002FFFCFFFD00, 0x05B5B114FC207D1C] 0 0) =
    some [0xBFFFFFFF40000001, 0x7FFFFFFF80000001, 0x3FFFFFFFC0000001, 1] := by decide +kernel
/-- V-V-4. -/
theorem test_vsqr : xAfter .vsqr (engine 2 61 [0xFFFFFFFF00000000, 0, 1, 0x0000000100000000] 0 0) =
    some [1, 0, 1, 0x00000000FFFFFFFF] := by decide +kernel
/-- V-T-3. -/
theorem test_nttf : xAfter .nttf (engine 2 61 [1, 2, 3, 4] 0 0) =
    some [0xA, 0xFFFDFFFEFFFFFFFF, 0xFFFFFFFEFFFFFFFF, 0x0001FFFFFFFFFFFE] := by decide +kernel
/-- V-T-6: ω_8^k in natural order. -/
theorem test_nttf_powers : xAfter .nttf (engine 3 127 [0, 1, 0, 0, 0, 0, 0, 0] 0 0) =
    some [1, 0xFFFFFFFEFF000001, 0x0001000000000000, 0xFFFFFEFF00000101, 0xFFFFFFFF00000000, 0x0000000001000000,
      0xFFFEFFFF00000001, 0x000000FFFFFFFF00] := by decide +kernel
/-- V-T-3a. -/
theorem test_ntti : xAfter .ntti (engine 2 61 [0xA, 0xFFFDFFFEFFFFFFFF, 0xFFFFFFFEFFFFFFFF, 0x0001FFFFFFFFFFFE] 0 0) =
    some [4, 8, 0xC, 0x10] := by decide +kernel
/-- R140: the four steps at n = 4 give V-T-3. -/
theorem test_four_step : fourStep (rootOfUnity 2) 2 [1, 2, 3, 4] =
    [0xA, 0xFFFDFFFEFFFFFFFF, 0xFFFFFFFEFFFFFFFF, 0x0001FFFFFFFFFFFE] := by decide +kernel

/-! ### Initialisation (section 2.4) -/

/-- V-INIT-2: the tables. -/
theorem test_init_tables : (nextOf (exec (.init 1 2) (regs 1 31))).map (fun t => (t.width, t.root2, t.mem.dw, t.mem.w, t.mem.u)) =
    some (15, 0x000000FFFEFFFF00, [16, 15], [1, 0x000000FFFEFFFF00], [0x7FFFFFFF80000001, 0x0000003FFFBFFFC0]) := by
  decide +kernel
/-- V-INIT-6: the guard rejects. -/
theorem test_init_guard : (nextOf (exec (.init 1 2) (regs 0 127))).map
    (fun t => (statusWord t.status, t.q, t.logn, t.width, t.root2, t.fault)) = some (0x04, 127, 0, 127, 0, 0) := by
  decide +kernel
/-- V-INIT-14: log_n is checked first. -/
theorem test_init_bad_logn : recordAfter (.init 1 2) (regs 27 1) = some (0x08, 0x4001200000000003, 27) := by decide +kernel
/-- Section 2.4: AUTOINIT(60) chooses log_n = 2. -/
theorem test_autoinit_size : (nextOf (exec (.autoinit 1) (regs 60 0))).map (fun t => (t.logn, t.strat, statusWord t.status)) =
    some (2, .unrolled, 0x02) := by decide +kernel
/-- V-AUTO-F (there with S0; here S1). -/
theorem test_autoinit_fatal : (nextOf (exec (.autoinit 1) (regs 0x48000000 0))).map
    (fun t => (statusWord t.status, t.fault, t.finfo, t.q, t.logn, t.width, t.root2)) =
    some (0x14, 0x4101000000000081, 0x48000000, 0x48000000, 26, 18, 0) := by decide +kernel
/-- R135 at the borders of the table of R166. -/
theorem test_strategies : selectStrategy 10 = .unrolled ∧ selectStrategy 11 = .fastish ∧ selectStrategy 12 = .fourStep := by
  decide

/-! ### Carry unit (sections 2.5, 2.6) -/

/-- V-CY-1. -/
theorem test_carry : xAfter .carry (engine 2 61 [0x1F80ACA31, 0x111714C62, 0xDF3D95AA, 0x119DEC1B8] 0 0) =
    some [0xFDF2, 0x446E, 0x3890, 0x37] := by decide +kernel
/-- V-C-4. -/
theorem test_add32 : xAfter (.add32 1 2) (engine 2 61 [1, 2, 3, 4] 0xFFFFFFFF 2) = some [5, 2, 2, 4] := by decide +kernel
/-- V-C-2: the all-saturated state. -/
theorem test_add32_saturated : xAfter (.add32 1 2) (engine 2 61 [0xFFFF, 0x7FFF, 0x7FFF, 0x7FFF] 1 0) = some [1, 0, 0, 0] := by
  decide +kernel
/-- V-C-6. -/
theorem test_add64 : xAfter (.add64 1 2) (engine 2 61 [1, 2, 3, 4] 0xFFFFFFFFFFFFFFFF 0) = some [8, 2, 3, 4] := by
  decide +kernel
/-- V-C-16. -/
theorem test_add64_index : (nextOf (exec (.add64 1 2) (engine 2 61 [1, 2, 3, 4] 1 4))).map (fun t => (t.fault, t.finfo)) =
    some (0x5201200000000004, 4) := by decide +kernel
/-- V-C-12. -/
theorem test_sub32 : xAfter (.sub32 1 2) (engine 2 61 [5, 0, 0, 0] 0xFFFFFFFF 3) = some [5, 0x7FFE, 0x7FFF, 0] := by
  decide +kernel
/-- V-C-15: c is checked before the index. -/
theorem test_sub32_priority : (nextOf (exec (.sub32 1 2) (engine 2 61 [1, 2, 3, 4] 0x100000000 4))).map
    (fun t => (t.fault, t.finfo)) = some (0x5301200000000003, 0x100000000) := by decide +kernel

/-! ### Mersenne engine (sections 2.7 to 2.9) -/

/-- V-MUL-3. -/
theorem test_mul : xAfter .mul (engine 2 61 [0xFFFF, 0x7FFF, 0x1234, 0x7ABC] 0 0) = some [0xFDF0, 0x446E, 0x3890, 0x37] := by
  decide +kernel
/-- V-MUL-6: even q, INIT(2, 6), second step. -/
theorem test_mul_even : xAfter .mul (engine 2 6 [2, 1, 1, 0] 0 0) = some [1, 0, 0, 0] := by decide +kernel
/-- R200. -/
theorem test_seed : xAfter .seed (engine 1 31 [9, 9] 0 0) = some [4, 0] := by decide +kernel
/-- R202: q = 5, the full test: [4] → [14] → [8] → [0], ICNT = 3. -/
theorem test_run : (nextOf (exec (.run 1) (engine 0 5 [9] 0 0))).map (fun t => (t.mem.x, t.icnt)) = some ([0], 3) := by
  decide +kernel
/-- Section 2.8: q = 2 performs no squaring. -/
theorem test_run_no_squaring : (nextOf (exec (.run 1) (engine 0 2 [1] 0 0))).map (fun t => (t.mem.x, t.icnt)) = some ([4], 0) := by
  decide +kernel
/-- V-R-1. -/
theorem test_residue : s3After (.residue 3) (engine 2 61 [0x1234, 0x7FFF, 1, 0x7ABC] 0 0) = some 0x1EAF0000FFFF1234 := by
  decide +kernel
/-- V-R-9: the packed word is 0 and a limb is not: Z = 0 (the value is RESIDUE_ALIAS, which no test can expect). -/
theorem test_residue_alias_flag : (nextOf (exec (.residue 3) (engine 2 89 [0, 0, 0x200000, 0] 0 0))).map
    (fun t => t.status.z) = some false := by decide +kernel

/-! ### Cell access and system commands (section 2.10) -/

/-- V-A-1. -/
theorem test_ldx : s3After (.ldx 3 2 0) (engine 1 31 [4, 0] 0 0) = some 4 := by decide +kernel
/-- V-A-2, at the engine INIT(2, 61): W[2] of V-INIT-3 at index S2 + 1 = 2. -/
theorem test_ldw : s3After (.ldw 3 2 1) (engine 2 61 [0, 0, 0, 0] 0 1) = some 0x000000FFFEFFFF00 := by decide +kernel
/-- V-INIT-3: U[3]. -/
theorem test_ldu : s3After (.ldu 3 2 1) (engine 2 61 [0, 0, 0, 0] 0 2) = some 0x585BDA2E086EBC26 := by decide +kernel
/-- V-INIT-3: DW[3] = 15. -/
theorem test_ldd : s3After (.ldd 3 2 3) (engine 2 61 [0, 0, 0, 0] 0 0) = some 15 := by decide +kernel
/-- V-A-5, at n = 4. -/
theorem test_ldd_index : (nextOf (exec (.ldd 3 2 4) (engine 2 61 [0, 0, 0, 0] 0 0))).map (fun t => (t.fault, t.finfo)) =
    some (0x6432000400000004, 4) := by decide +kernel
/-- V-A-6: the 65-bit index does not wrap into range. -/
theorem test_stx_no_wrap : (nextOf (exec (.stx 2 1 0xFFF) (engine 1 31 [0, 0] 7 0xFFFFFFFFFFFFFFFF))).map
    (fun t => (t.mem.x, t.finfo)) = some ([0, 0], 0xFFE) := by decide +kernel
/-- V-A-8. -/
theorem test_stx : xAfter (.stx 2 1 0) (engine 1 31 [1, 2] 0xFFFFFFFF00000000 1) = some [1, 0xFFFFFFFF00000000] := by
  decide +kernel
/-- V-A-9. -/
theorem test_ldi : s3After (.ldi 3 0xFFFF) State.reset = some 0xFFFF := by decide +kernel
/-- V-A-10: no check. -/
theorem test_mov : s3After (.mov 3 1) (regs 0xFFFFFFFFFFFFFFFF 0) = some 0xFFFFFFFFFFFFFFFF := by decide +kernel
/-- V-A-11. -/
theorem test_rdcr_cap : s3After (.rdcr 3 12) State.reset = some 0x01103D1A := by decide +kernel
/-- V-A-12. -/
theorem test_rdcr_bad : recordAfter (.rdcr 1 13) State.reset = some (0x08, 0x0310000D00000003, 0xD) := by decide +kernel
/-- R227. -/
theorem test_nop : nextOf (exec .nop (regs 1 2)) = some (regs 1 2) := by decide +kernel
/-- V-A-14. -/
theorem test_sreset : (nextOf (exec .sreset (engine 1 31 [1, 2] 7 8))).map (fun t => (statusWord t.status, t.q, t.mem, t.readS 1)) =
    some (0, 0, Memory.empty, 7) := by decide +kernel

/-! ### The sequencer and the host interface (section 2.11) -/

/-- V-D-1. -/
theorem test_illegal_word : (issueStep 0x05000000 State.reset).map (fun t => (statusWord t.status, t.fault, t.finfo)) =
    some (0x08, 0x0500000000000001, 0x05000000) := by decide +kernel
/-- V-D-5. -/
theorem test_upper_bits : (issueStep 0x0000000100000000 State.reset).map (fun t => (t.fault, t.finfo)) =
    some (0x0000000000000001, 0x0000000100000000) := by decide +kernel
/-- V-D-7: the first fault stays. -/
theorem test_second_fault : (issueStep 0x05000000 ((regs 0 0).setErr true)).map (fun t => (t.fault, t.finfo)) = some (0, 0) := by
  decide +kernel
/-- V-D-8: a halted engine ignores LDI. -/
theorem test_halted : (issueStep 0x02200005 ((regs 0 9).setFatal true)).map (fun t => t.readS 2) = some 9 := by decide +kernel
/-- R63: the host reads CAP at 0x0A0. -/
theorem test_host_read : (nextOf (step { State.reset with inbox := [.read 0x0A0] })).map (fun t => t.reply) =
    some (some 0x01103D1A) := by decide +kernel
/-- R65: the host writes S15 at 0x178. -/
theorem test_host_write : (nextOf (step { State.reset with inbox := [.write 0x178 5] })).map (fun t => t.readS 15) = some 5 := by
  decide +kernel
/-- R270: hardware reset clears ERR. -/
theorem test_hard_reset : (nextOf (step { ((regs 0 0).setErr true) with inbox := [.reset] })).map (fun t => statusWord t.status) =
    some 0 := by decide +kernel
/-- R64, by the fixed interface: the stored word is the next command. -/
theorem test_with_fetch_word : (nextOf (step (State.reset.withFetchWord 32 0x0230FFFF))).map (fun t => t.readS 3) = some 0xFFFF := by
  decide +kernel

/-! ### Witnesses: for every obligation with hypotheses, a concrete state and operands that meet them together -/

/-- The engine of INIT(1, 31) with a valid limb array: n = 2, DW = [16, 15]. -/
def ready (a b : Word) : State := engine 1 31 [0xFFFF, 0x7FFF] a b

theorem engineTables_ready : EngineTables (ready 2 0) where
  logn_le := by decide +kernel
  two_le_q := by decide +kernel
  guard_passes := by decide +kernel
  width_eq := by decide +kernel
  root2_eq := by decide +kernel
  strat_eq := by decide +kernel
  w_eq := by decide +kernel
  u_eq := by decide +kernel
  dw_eq := by decide +kernel
  x_length := by decide +kernel
  x_canonical := by decide +kernel

theorem machineInv_ready : MachineInv (ready 2 0) where
  idle := by decide +kernel
  logn_le := by decide +kernel
  tables := fun _ => engineTables_ready
  no_tables := fun h => absurd h (by decide +kernel)
  halted := fun h => absurd h (by decide +kernel)
  fail_init := fun h => absurd h (by decide +kernel)
  no_record := fun _ _ => by decide +kernel
  fault_reserved := by decide +kernel

theorem ready_ready : Ready (ready 2 0) := ⟨machineInv_ready, by decide +kernel⟩

theorem witness_DecodeOfEncode : (Instr.stx 15 15 0xFFF).wellFormed = true := by decide

theorem witness_EncodeOfDecode : decode 0xFFFFFFFF#32 ≠ .ok .nop ∧ decode 0x61FFFFFF#32 = .error (.mustBeZero .abm) ∧
    decode 0x610FFFFF#32 = .ok (.stx 15 15 0xFFF) := ⟨by decide, by rfl, by rfl⟩

theorem witness_WordIsCommandIffRowMatches : ((0x02#8, Format.di) : OpcodeRow) ∈ opcodeMap ∧
    (0x0230FFFF#32 &&& Format.mask .di) = rowMatch (0x02#8, .di) := by decide

theorem witness_StepRunsDecodedCommand :
    ∃ (s : State) (v : Word) (rest : List HostMove) (i : Instr), s.status.busy = false ∧ s.status.fatal = false ∧
      s.inbox = .write 0x000 v :: rest ∧ v.toNat < 2 ^ 32 ∧ decode (v.extractLsb' 0 32) = .ok i :=
  ⟨{ State.reset with inbox := [.write 0 0x12201000] }, 0x12201000, [], .fmul 2 0 1, rfl, rfl, rfl, by decide, rfl⟩

/-- One state for each of the two ways to be illegal, at the least value with an upper bit and at an unused opcode. -/
theorem witness_IllegalWordFaults :
    ({ State.reset with inbox := [.write 0 0x100000000] } : State).status.fatal = false ∧
    2 ^ 32 ≤ (0x100000000 : Word).toNat ∧
    decode ((0x05000000 : Word).extractLsb' 0 32) = .error (.unknownOpcode 5#8) := ⟨rfl, by decide, rfl⟩

/-- A halted state for each clause: an ignored word, SRESET, and a host write and read of the last scalar register. -/
theorem witness_HaltedEngineIgnoresAllButSreset :
    let h (m : HostMove) : State := { (State.reset.setFatal true) with inbox := [m] }
    (∀ m, (h m).status.busy = false ∧ (h m).status.fatal = true ∧ (h m).inbox = [m]) ∧
    (0x01000001 : Word).extractLsb' 0 32 ≠ 0x01000000#32 ∧ 0x178 = 0x100 + 8 * (15 : SReg).val :=
  ⟨fun _ => ⟨rfl, rfl, rfl⟩, by decide, by decide⟩

/-- The border offsets of each clause of the register map. -/
theorem witness_HostRegisterMap :
    (∀ m, ({ State.reset with inbox := [m] } : State).status.busy = false) ∧
    0x178 = 0x100 + 8 * (15 : SReg).val ∧ 0x0A0 = 0x040 + 8 * 12 ∧ controlRegister State.reset 12 = some 0x01103D1A ∧
    (0x038 % 8 = 0 ∧ 0x0A8 % 8 = 0 ∧ 0x0F8 % 8 = 0 ∧ 0x180 % 8 = 0) ∧ 0x179 % 8 ≠ 0 :=
  ⟨fun _ => rfl, by decide, by decide, by decide, by decide, by decide⟩

theorem witness_HardwareResetValues : ({ State.reset with inbox := [.reset] } : State).inbox = .reset :: [] := rfl

theorem witness_FirstFaultStaysRecorded :
    let s : State := { (State.reset.setErr true) with inbox := [.write 0 0x05000000] }
    s.status.err = true ∧ s.inbox.head? ≠ some .reset ∧ s.inbox.head? ≠ some (.write 0x000 0x01000000#64) ∧
      (nextOf (step s)).isSome = true := by decide +kernel

theorem witness_OnlyDestinationWritten : (nextOf (exec (.ldi 3 5) State.reset)).isSome = true ∧
    destination (.ldi 3 5) ≠ some 4 ∧ destination .mul ≠ some 4 := by decide +kernel

theorem witness_TablesAreImmutable : (nextOf (exec .mul (ready 2 0))).isSome = true ∧
    (∀ ra rb, Instr.mul ≠ .init ra rb) ∧ (∀ ra, Instr.mul ≠ .autoinit ra) ∧ Instr.mul ≠ .sreset :=
  ⟨by decide +kernel, by simp, by simp, by simp⟩

theorem witness_UninitialisedCommandsFault : needsInit (.run 1) = true ∧ State.reset.status.initok = false := by decide

theorem witness_FieldAddSubtract : ((regs 0xFFFFFFFF00000000 0).readS 1).toNat < Config.P ∧
    ((regs 0xFFFFFFFF00000000 0).readS 2).toNat < Config.P := by decide

theorem witness_FieldMultiplySquareReduce : ((regs 0xFFFFFFFF00000000 0xFFFFFFFF00000000).readS 1).toNat < Config.P ∧
    ((regs 0xFFFFFFFF00000000 0xFFFFFFFF00000000).readS 2).toNat < Config.P := by decide

theorem witness_FieldPower : ((regs 0xFFFFFFFF00000000 0xFFFFFFFFFFFFFFFF).readS 1).toNat < Config.P := by decide

theorem witness_FieldInverse : ((regs 1 0).readS 1).toNat < Config.P ∧ (regs 1 0).readS 1 ≠ 0#64 := by decide

/-- Each clause at its border value: P as first operand, P as second operand, 0. -/
theorem witness_KernelOperandFaults : Config.P ≤ ((regs 0xFFFFFFFF00000001 0).readS 1).toNat ∧
    (((regs 0xFFFFFFFF00000000 0xFFFFFFFF00000001).readS 1).toNat < Config.P ∧
      Config.P ≤ ((regs 0xFFFFFFFF00000000 0xFFFFFFFF00000001).readS 2).toNat) ∧ (regs 0 0).readS 1 = 0#64 := by decide

/-- Each clause at its border value. -/
theorem witness_ArgumentFaults : 26 < ((regs 27 0).readS 1).toNat ∧
    (((regs 26 1).readS 1).toNat ≤ 26 ∧ ((regs 26 1).readS 2).toNat < 2) ∧ ((regs 1 0).readS 1).toNat < 2 ∧
    ((ready 0x100000000 0).status.initok = true ∧ 2 ^ 32 ≤ ((ready 0x100000000 0).readS 1).toNat) ∧ 12 < 13 := by
  decide +kernel

/-- Each clause at its border value: the index n, the last index with a value that is P, the start limb n. -/
theorem witness_IndexAndStoreFaults : (ready 2 2).status.initok = true ∧
    (ready 2 2).n ≤ ((ready 2 2).readS 1).toNat + 0 ∧
    (((ready 1 0xFFFFFFFF00000001).readS 1).toNat + 0 < (ready 1 0xFFFFFFFF00000001).n ∧
      Config.P ≤ ((ready 1 0xFFFFFFFF00000001).readS 2).toNat) ∧
    ((ready 2 2).n ≤ ((ready 2 2).readS 2).toNat ∧ ((ready 2 2).readS 1).toNat < 2 ^ 32) := by decide +kernel

theorem witness_LoadsReadOneCell : (ready 0 0).status.initok = true ∧ ((ready 0 0).readS 1).toNat + 1 < (ready 0 0).n := by
  decide +kernel

theorem witness_StoreWritesOneCell : (ready 1 0).status.initok = true ∧ (ready 1 0).mem.x.length = (ready 1 0).n ∧
    ((ready 1 0).readS 1).toNat + 0 < (ready 1 0).n ∧ ((ready 1 0).readS 2).toNat < Config.P := by decide +kernel

theorem witness_VectorCommandsCellwise : (ready 0 0).status.initok = true ∧
    (ready 0 0).mem.w.length = (ready 0 0).mem.x.length ∧ (ready 0 0).mem.u.length = (ready 0 0).mem.x.length := by
  decide +kernel

theorem witness_WeightThenUnweightDividesByLength : Ready (ready 2 0) := ready_ready

/-- For `ForwardTransformCells` and `InverseTransformCells`. -/
theorem witness_TransformCells : (ready 0 0).status.initok = true ∧ (ready 0 0).logn.toNat ≤ 26 ∧
    (ready 0 0).mem.x.length = (ready 0 0).n := by decide +kernel

theorem witness_TransformRoundTripAndConvolution : (1 : Nat) ≤ 26 ∧ ([1, 2] : List Word).length = 2 ^ 1 ∧
    ([3, 0xFFFFFFFF00000000] : List Word).length = 2 ^ 1 ∧ canonicalCells [1, 2] = true ∧
    canonicalCells [3, 0xFFFFFFFF00000000] = true := by decide

theorem witness_FourStepComputesTransform : (1 : Nat) ≤ 13 ∧ ([1, 2, 3, 4] : List Word).length = 2 ^ 1 * 2 ^ 1 := by decide

theorem witness_BuilderChecksNeverFail : (26 : Nat) ≤ 26 ∧ 2 * (1207959551 / 2 ^ 26) + 26 ≤ 60 := by decide

theorem witness_DigitWidthsSplitExponent : (0 : Nat) < 8 := by decide

theorem witness_InitSucceeds : ((regs 26 1207959551).readS 1).toNat = 26 ∧ ((regs 26 1207959551).readS 2).toNat = 1207959551 ∧
    (26 : Nat) ≤ 26 ∧ 2 ≤ 1207959551 ∧ 2 * (1207959551 / 2 ^ 26) + 26 ≤ 60 := by decide

theorem witness_InitGuardFailure : ((regs 3 232).readS 1).toNat ≤ 26 ∧ 2 ≤ ((regs 3 232).readS 2).toNat ∧
    61 ≤ 2 * (((regs 3 232).readS 2).toNat / 2 ^ ((regs 3 232).readS 1).toNat) + ((regs 3 232).readS 1).toNat := by decide

theorem witness_AutoinitChoosesSmallestSize : 2 ≤ ((regs 1207959551 0).readS 1).toNat ∧
    ((regs 1207959551 0).readS 1).toNat ≤ 1207959551 := by decide

theorem witness_AutoinitExhaustionIsFatal : 1207959552 ≤ ((regs 1207959552 0).readS 1).toNat := by decide

theorem witness_InitialisedEngineTables : EngineTables (ready 2 0) := engineTables_ready

theorem witness_CarryNormalises : Ready (ready 2 0) := ready_ready

theorem witness_CarryKeepsValidState : (ready 2 0).status.initok = true ∧
    validLimbs (ready 2 0).mem.x (ready 2 0).mem.dw = true := by decide +kernel

/-- For `AddIncreasesValue`, `SubtractDecreasesValue` and `CarryLoopsTerminate`. -/
theorem witness_CarryPrimitives : Ready (ready 2 0) ∧ validLimbs (ready 2 0).mem.x (ready 2 0).mem.dw = true ∧
    ((ready 2 0).readS 2).toNat < (ready 2 0).n ∧ ((ready 2 0).readS 1).toNat < 2 ^ 32 :=
  ⟨ready_ready, by decide +kernel, by decide +kernel, by decide +kernel⟩

theorem witness_MulAndRunComplete : Ready (ready 2 0) := ready_ready

theorem witness_MulIsStageSequence : (ready 2 0).status.initok = true ∧ (ready 2 0).readS 1 = 2#64 ∧
    (ready 2 0).readS 2 = 0#64 ∧ (nextOf (exec .mul (ready 2 0))).isSome = true ∧
    (nextOf (execAll [.vmulw, .nttf, .vsqr, .ntti, .vmulu, .carry, .sub32 1 2] (ready 2 0))).isSome = true := by
  decide +kernel

theorem witness_MulComputesSquareMinusTwo : Ready (ready 2 0) ∧ Nat.Coprime (ready 2 0).q.toNat (ready 2 0).n ∧
    validLimbs (ready 2 0).mem.x (ready 2 0).mem.dw = true := ⟨ready_ready, by decide +kernel, by decide +kernel⟩

/-- An initialised state for the first clause and a state without initialisation for the second. -/
theorem witness_SeedWritesFour : (ready 2 0).status.initok = true ∧ State.reset.status.initok = false := by decide +kernel

theorem witness_RunIsSeedThenMuls : (ready 2 0).status.initok = true := by decide +kernel

theorem witness_RunAndResidueDecideLucasLehmer : Ready (ready 2 0) ∧ Nat.Coprime (ready 2 0).q.toNat (ready 2 0).n ∧
    (ready 2 0).readS 2 = 0#64 := ⟨ready_ready, by decide +kernel, by decide +kernel⟩

theorem witness_ResidueReportsLowWord : (ready 2 0).status.initok = true ∧
    validLimbs (ready 2 0).mem.x (ready 2 0).mem.dw = true := by decide +kernel

theorem witness_ResidueZeroFlagIsExact : (ready 2 0).status.initok = true := by decide +kernel

/-- For `StepKeepsMachineInvariant` and `EveryStepContinues`: a state with a command waiting. -/
theorem witness_StepKeepsMachineInvariant :
    let s : State := { (ready 2 0) with inbox := [.write 0 0x54000000] }
    MachineInv s ∧ (nextOf (step s)).isSome = true :=
  ⟨{ idle := machineInv_ready.idle
     logn_le := machineInv_ready.logn_le
     tables := fun _ =>
       { logn_le := engineTables_ready.logn_le
         two_le_q := engineTables_ready.two_le_q
         guard_passes := engineTables_ready.guard_passes
         width_eq := engineTables_ready.width_eq
         root2_eq := engineTables_ready.root2_eq
         strat_eq := engineTables_ready.strat_eq
         w_eq := engineTables_ready.w_eq
         u_eq := engineTables_ready.u_eq
         dw_eq := engineTables_ready.dw_eq
         x_length := engineTables_ready.x_length
         x_canonical := engineTables_ready.x_canonical }
     no_tables := machineInv_ready.no_tables
     halted := machineInv_ready.halted
     fail_init := machineInv_ready.fail_init
     no_record := machineInv_ready.no_record
     fault_reserved := machineInv_ready.fault_reserved }, by decide +kernel⟩

theorem witness_InvariantGivesCanonicalMemory : MachineInv (ready 2 0) := machineInv_ready

theorem witness_IdleEngineWaits : State.reset.inbox = [] := rfl

end Sys2Proof.Tests
end

