-- ==== Sys2Proof/Proofs/Kernel.lean ====
section
/-! PROOFS. The modular kernel (40_modular_kernel.md): what each of the commands FADD to FPOW does when its checks pass,
said once per command, and the statements O16 to O18 assembled from that and the value of the field functions. -/

namespace Sys2Proof.Machine

section Values

/-- On field elements `fsub` is the difference mod P, written without a negative number (R101). -/
theorem fsub_eq_mod {a b : Nat} (ha : a < Config.P) (hb : b < Config.P) :
    fsub a b = (a + Config.P - b) % Config.P := by
  rw [fsub_eq ha hb]
  split
  · next hle =>
    have hwrap : a + Config.P - b = a - b + Config.P := by omega
    rw [hwrap, Nat.add_mod_right, Nat.mod_eq_of_lt (by omega)]
  · next hlt => rw [Nat.mod_eq_of_lt (by omega)]

/-- `fsqr` is the square mod P (R103). -/
theorem fsqr_eq (a : Nat) : fsqr a = a ^ 2 % Config.P := by rw [fsqr, fmul, Nat.pow_two]

/-- The exponent of a scalar register fits the 64 bits of `fpow`, so the power is exact (R105, R113). -/
theorem fpow_word (x : Nat) (e : Word) : fpow x e.toNat = x ^ e.toNat % Config.P :=
  fpow_eq x e.toNat (word_toNat_lt e)

end Values

/-- A command that ends in the write of one scalar register completes and changes that register only (R22). -/
theorem completes_onlyScalar {o : Outcome} {s : State} {rd : SReg} {v : Word}
    (h : o = .next (s.writeS rd v)) : ∃ t, o = .next t ∧ OnlyScalar rd v s t :=
  ⟨s.writeS rd v, h, onlyScalar_writeS rd v s⟩

section Completion
variable (s : State) (rd : SReg) {ra rb : SReg}

/-- FADD of field elements writes their sum (R108). -/
theorem exec_fadd_of_lt (ha : (s.readS ra).toNat < Config.P) (hb : (s.readS rb).toNat < Config.P) :
    exec (.fadd rd ra rb) s = .next (s.writeS rd (wordOf (fadd (s.readS ra).toNat (s.readS rb).toNat))) := by
  rw [exec, execFadd, needField_pass _ _ _ _ ha, needField_pass _ _ _ _ hb]

/-- FSUB of field elements writes their difference (R109). -/
theorem exec_fsub_of_lt (ha : (s.readS ra).toNat < Config.P) (hb : (s.readS rb).toNat < Config.P) :
    exec (.fsub rd ra rb) s = .next (s.writeS rd (wordOf (fsub (s.readS ra).toNat (s.readS rb).toNat))) := by
  rw [exec, execFsub, needField_pass _ _ _ _ ha, needField_pass _ _ _ _ hb]

/-- FMUL of field elements writes their product (R110). -/
theorem exec_fmul_of_lt (ha : (s.readS ra).toNat < Config.P) (hb : (s.readS rb).toNat < Config.P) :
    exec (.fmul rd ra rb) s = .next (s.writeS rd (wordOf (fmul (s.readS ra).toNat (s.readS rb).toNat))) := by
  rw [exec, execFmul, needField_pass _ _ _ _ ha, needField_pass _ _ _ _ hb]

/-- FSQR of a field element writes its square (R111). -/
theorem exec_fsqr_of_lt (ha : (s.readS ra).toNat < Config.P) :
    exec (.fsqr rd ra) s = .next (s.writeS rd (wordOf (fsqr (s.readS ra).toNat))) := by
  rw [exec, execFsqr, needField_pass _ _ _ _ ha]

/-- FRED checks no operand: `S[rb]` is the high and `S[ra]` the low half of what it reduces (R112). -/
theorem exec_fred (ra rb : SReg) :
    exec (.fred rd ra rb) s = .next (s.writeS rd (wordOf (fred (s.readS rb).toNat (s.readS ra).toNat))) := rfl

/-- FPOW checks its base only and writes the power (R113). -/
theorem exec_fpow_of_lt (rb : SReg) (ha : (s.readS ra).toNat < Config.P) :
    exec (.fpow rd ra rb) s = .next (s.writeS rd (wordOf (fpow (s.readS ra).toNat (s.readS rb).toNat))) := by
  rw [exec, execFpow, needField_pass _ _ _ _ ha]

end Completion

/-- Settles O18: the induction over the bits of the exponent is `fpowBits_eq`, and a register holds at most 64 of them. -/
theorem fieldPower : Obligations.FieldPower := by
  intro s rd ra rb ha
  rw [← fpow_word]
  exact completes_onlyScalar (exec_fpow_of_lt s rd rb ha)

/-- Settles O16: both operands pass their check, and the difference of the integers is taken mod P. -/
theorem fieldAddSubtract : Obligations.FieldAddSubtract := by
  intro s rd ra rb ha hb
  constructor
  · exact completes_onlyScalar (exec_fadd_of_lt s rd ha hb)
  · rw [← fsub_eq_mod ha hb]
    exact completes_onlyScalar (exec_fsub_of_lt s rd ha hb)

/-- Settles O17: FMUL and FSQR after their checks, FRED without one. -/
theorem fieldMultiplySquareReduce : Obligations.FieldMultiplySquareReduce := by
  intro s rd ra rb
  refine ⟨fun ha hb => ?mul, fun ha => ?sqr, ?red⟩
  case mul => exact completes_onlyScalar (exec_fmul_of_lt s rd ha hb)
  case sqr =>
    rw [← fsqr_eq]
    exact completes_onlyScalar (exec_fsqr_of_lt s rd ha)
  case red => exact completes_onlyScalar (exec_fred s rd ra rb)

end Sys2Proof.Machine
end

