-- ==== Sys2Proof/Proofs/Transform.lean ====
section
/-! PROOFS. The root of unity (42_transform.md, R130). Everything rests on two facts: `2^26` divides `P - 1`, and the
generator's `(P - 1)/2`-th power is `P - 1`; that P is prime is not needed. -/

namespace Sys2Proof.Machine

section FieldPowers

/-- A power of a power multiplies the exponents (R105). -/
theorem fpow_fpow (x : Nat) {a b : Nat} (ha : a < 2 ^ 64) (hb : b < 2 ^ 64) :
    fpow (fpow x a) b = x ^ (a * b) % Config.P := by
  rw [fpow_eq _ _ hb, fpow_eq _ _ ha, ← Nat.pow_mod, ← Nat.pow_mul]

/-- A product with `finv` is a `(P - 1)`-th power, of every operand (R102, R106). -/
theorem fmul_finv_eq_pow (x : Nat) : fmul x (finv x) = x ^ (Config.P - 1) % Config.P := by
  have hexp : Config.P - 1 = Config.P - 2 + 1 := by decide
  rw [finv_eq, fmul, Nat.mul_mod_mod, hexp, Nat.pow_succ']

/-- `finv` inverts every root of unity whose order divides `P - 1`. -/
theorem fmul_finv_of_pow_eq_one {x n : Nat} (hn : n ∣ Config.P - 1) (hx : x ^ n % Config.P = 1) :
    fmul x (finv x) = 1 := by
  obtain ⟨k, hk⟩ := hn
  rw [fmul_finv_eq_pow, hk, Nat.pow_mul, Nat.pow_mod, hx, Nat.one_pow]
  decide

/-- An element whose `(P - 1)/2`-th power is -1 has `(P - 1)`-th power 1: the square of -1. -/
theorem pow_order_eq_one {x : Nat} (h : x ^ ((Config.P - 1) / 2) % Config.P = Config.P - 1) :
    x ^ (Config.P - 1) % Config.P = 1 := by
  have hexp : (Config.P - 1) / 2 * 2 = Config.P - 1 := by decide
  calc x ^ (Config.P - 1) % Config.P
      = (x ^ ((Config.P - 1) / 2)) ^ 2 % Config.P := by rw [← Nat.pow_mul, hexp]
    _ = (Config.P - 1) ^ 2 % Config.P := by rw [Nat.pow_mod, h]
    _ = 1 := by decide

/-- The `(P - 1)/2`-th power of the generator is -1, evaluated by the squarings of `fpow` (R105). -/
theorem generator_pow_half : Config.G ^ ((Config.P - 1) / 2) % Config.P = Config.P - 1 := by
  rw [← fpow_eq _ _ (by decide)]
  decide +kernel

end FieldPowers

section Root
variable {l : Nat}

/-- Every supported length divides the order of the field's group (R10, R130). -/
theorem two_pow_dvd_order (hl : l ≤ 26) : 2 ^ l ∣ Config.P - 1 :=
  (Nat.pow_dvd_pow 2 hl).trans (by decide)

/-- The exponent of the root of unity fits the 64 bits of `fpow` (R105). -/
theorem order_div_lt (n : Nat) : (Config.P - 1) / n < 2 ^ 64 :=
  (Nat.div_le_self _ _).trans_lt (by decide)

/-- The root of unity as a power of the generator (R130). -/
theorem rootOfUnity_eq (l : Nat) : rootOfUnity l = Config.G ^ ((Config.P - 1) / 2 ^ l) % Config.P :=
  fpow_eq _ _ (order_div_lt _)

/-- A power of the root of unity is a power of the generator. -/
theorem fpow_rootOfUnity (l : Nat) {e : Nat} (he : e < 2 ^ 64) :
    fpow (rootOfUnity l) e = Config.G ^ ((Config.P - 1) / 2 ^ l * e) % Config.P :=
  fpow_fpow _ (order_div_lt _) he

/-- `ω_n^n = 1`: the generator's `(P - 1)`-th power (R130). -/
theorem fpow_rootOfUnity_length (hl : l ≤ 26) : fpow (rootOfUnity l) (2 ^ l) = 1 := by
  rw [fpow_rootOfUnity l (Nat.pow_lt_pow_right (by decide) (by omega)), Nat.div_mul_cancel (two_pow_dvd_order hl)]
  exact pow_order_eq_one generator_pow_half

/-- `ω_n^(n/2) = P - 1` for `n ≥ 2`: the generator's `(P - 1)/2`-th power (R130). -/
theorem fpow_rootOfUnity_half (hl : l ≤ 26) (hpos : 1 ≤ l) :
    fpow (rootOfUnity l) (2 ^ (l - 1)) = Config.P - 1 := by
  obtain ⟨m, rfl⟩ : ∃ m, l = m + 1 := ⟨l - 1, by omega⟩
  have hdvd : 2 ^ m ∣ (Config.P - 1) / 2 := (Nat.pow_dvd_pow 2 (by omega : m ≤ 25)).trans (by decide)
  have hexp : (Config.P - 1) / 2 ^ (m + 1) * 2 ^ m = (Config.P - 1) / 2 := by
    rw [Nat.pow_succ', ← Nat.div_div_eq_div_mul, Nat.div_mul_cancel hdvd]
  rw [Nat.add_sub_cancel, fpow_rootOfUnity _ (Nat.pow_lt_pow_right (by decide) (by omega)), hexp]
  exact generator_pow_half

/-- `ω_n^(-1) = finv(ω_n)` (R130). -/
theorem fmul_finv_rootOfUnity (hl : l ≤ 26) : fmul (rootOfUnity l) (finv (rootOfUnity l)) = 1 := by
  apply fmul_finv_of_pow_eq_one (two_pow_dvd_order hl)
  rw [← fpow_eq _ _ (Nat.pow_lt_pow_right (by decide) (by omega))]
  exact fpow_rootOfUnity_length hl

end Root

/-- Settles O29: the four facts hold for every supported length by the laws of powers, and the values the rule lists are
evaluated. -/
theorem rootOfUnityIsPrimitive : Obligations.RootOfUnityIsPrimitive := by
  refine ⟨fun l hl => ⟨rootOfUnity_eq l, fpow_rootOfUnity_length hl, fpow_rootOfUnity_half hl,
    fmul_finv_rootOfUnity hl⟩, ?values⟩
  case values => decide +kernel

end Sys2Proof.Machine
end

