-- ==== Sys2Proof/Proofs/CarryEngine.lean ====
section
/-! PROOFS. The carry engine (44_carry_engine.md): the seed of the Lucas-Lehmer sequence (R200). -/

namespace Sys2Proof.Machine

section Seed

/-- The word of SEED: its opcode above fields that are all zero (R89, R200). -/
theorem encode_seed : encode .seed = 0x55000000#32 := by decide

/-- A cell above the first one of a list that goes on with zeros reads 0; above the list's end it reads 0 too (R17). -/
theorem cell_cons_replicate_zero (v : Word) (k : Nat) {i : Nat} (hi : 1 ≤ i) :
    cell (v :: List.replicate k 0#64) i = 0#64 := by
  obtain ⟨j, rfl⟩ : ∃ j, i = j + 1 := ⟨i - 1, by omega⟩
  rw [cell, List.getD_cons_succ, List.getD_eq_getElem?_getD]
  exact List.getElem?_getD_replicate_default_eq _ k j

/-- SEED on an initialised engine is SEED_PROC (R91, R200). -/
theorem exec_seed_of_initok {s : State} (h : s.status.initok = true) : exec .seed s = .next (seedProc s) := by
  rw [exec, execSeed, needInit_pass _ _ _ h]

/-- SEED on an engine without initialisation writes nothing but the record of NOT_INIT (R91, R243). -/
theorem exec_seed_of_not_initok {s : State} (h : s.status.initok = false) :
    exec .seed s = .next (faultState .notInit 0x55000000#32 0#64 s) := by
  rw [exec, execSeed, needInit_stop _ _ _ h, raiseFault_eq_faultState, encode_seed]

end Seed

/-- Settles O50: the completed state is `seedProc s`, whose X is the cell 4 followed by n - 1 zeros. -/
theorem seedWritesFour : Obligations.SeedWritesFour := by
  refine ⟨encode_seed, fun s h => ⟨seedProc s, exec_seed_of_initok h, ?frame, seedProc_length s, ?first, ?rest⟩,
    fun s h => exec_seed_of_not_initok h⟩
  case frame => exact seedProc_eq s
  case first => rw [seedProc_eq, cell, List.getD_cons_zero]
  case rest =>
    intro i hi
    rw [seedProc_eq]
    exact cell_cons_replicate_zero _ _ hi

end Sys2Proof.Machine
end

section
/-! PROOFS. The decoder and the encoder (30_encoding.md). The must-be-zero bits of a format are one or two fields of the
word, so every statement about a word comes down to the numbers in its fields. -/

namespace Sys2Proof

section ReservedFields

/-- A mask that covers exactly one field of the word is zero under a word exactly when the field is zero (R82). -/
theorem and_eq_zero_iff_field {m : Command} (w : Command) (lo len : Nat)
    (hm : ∀ i < 32, m.getLsbD i = true ↔ lo ≤ i ∧ i < lo + len) (hfit : lo + len ≤ 32) :
    w &&& m = 0#32 ↔ w.toNat / 2 ^ lo % 2 ^ len = 0 := by
  constructor
  · exact fun h => field_zero_of_and lo len h fun i hi => (hm (lo + i) (by omega)).2 (by omega)
  · exact fun h => and_eq_zero_of_bits fun i hi hb =>
      have hrange := (hm i hi).1 hb
      bit_false_of_field lo len i h hrange.1 hrange.2

/-- A mask of two parts is zero under a word exactly when both parts are. -/
theorem and_or_eq_zero_iff (w m m' : Command) : w &&& (m ||| m') = 0#32 ↔ w &&& m = 0#32 ∧ w &&& m' = 0#32 := by
  rw [BitVec.and_or_distrib_left, BitVec.or_eq_zero_iff]

/-- The fields that a format says must be zero hold 0 in the word (R82). -/
def Format.reservedZero (f : Format) (w : Command) : Prop :=
  match f with
  | .z => w.toNat / 2 ^ 0 % 2 ^ 24 = 0
  | .d => w.toNat / 2 ^ 0 % 2 ^ 20 = 0
  | .a => w.toNat / 2 ^ 20 % 2 ^ 4 = 0 ∧ w.toNat / 2 ^ 0 % 2 ^ 16 = 0
  | .ab => w.toNat / 2 ^ 20 % 2 ^ 4 = 0 ∧ w.toNat / 2 ^ 0 % 2 ^ 12 = 0
  | .da => w.toNat / 2 ^ 0 % 2 ^ 16 = 0
  | .dab => w.toNat / 2 ^ 0 % 2 ^ 12 = 0
  | .di => w.toNat / 2 ^ 16 % 2 ^ 4 = 0
  | .dc => w.toNat / 2 ^ 12 % 2 ^ 8 = 0
  | .dam => w.toNat / 2 ^ 12 % 2 ^ 4 = 0
  | .abm => w.toNat / 2 ^ 20 % 2 ^ 4 = 0

/-- The must-be-zero bits of a format, as fields (R82). -/
theorem mustBeZero_iff (f : Format) (w : Command) : w &&& f.mustBeZero = 0#32 ↔ f.reservedZero w := by
  cases f with
  | z => exact and_eq_zero_iff_field w 0 24 (by decide) (by decide)
  | d => exact and_eq_zero_iff_field w 0 20 (by decide) (by decide)
  | a =>
    exact (and_or_eq_zero_iff w 0x00F00000#32 0x0000FFFF#32).trans
      (and_congr (and_eq_zero_iff_field w 20 4 (by decide) (by decide))
        (and_eq_zero_iff_field w 0 16 (by decide) (by decide)))
  | ab =>
    exact (and_or_eq_zero_iff w 0x00F00000#32 0x00000FFF#32).trans
      (and_congr (and_eq_zero_iff_field w 20 4 (by decide) (by decide))
        (and_eq_zero_iff_field w 0 12 (by decide) (by decide)))
  | da => exact and_eq_zero_iff_field w 0 16 (by decide) (by decide)
  | dab => exact and_eq_zero_iff_field w 0 12 (by decide) (by decide)
  | di => exact and_eq_zero_iff_field w 16 4 (by decide) (by decide)
  | dc => exact and_eq_zero_iff_field w 12 8 (by decide) (by decide)
  | dam => exact and_eq_zero_iff_field w 12 4 (by decide) (by decide)
  | abm => exact and_eq_zero_iff_field w 20 4 (by decide) (by decide)

/-- A word whose reserved fields are zero passes the format check (R87). -/
theorem checkFormat_pass {w : Command} {f : Format} (h : f.reservedZero w) (i : Instr) : checkFormat w f i = .ok i :=
  if_pos ((mustBeZero_iff f w).2 h)

end ReservedFields

section PackedFields
variable (op : BitVec 8) (rd ra rb : SReg) (imm : Nat)

theorem opField_packWord : (opField (packWord op rd ra rb imm)).toNat = op.toNat := Laws.OpcodeByte.packed op rd ra rb imm

theorem opField_packWordDI : (opField (packWordDI op rd imm)).toNat = op.toNat := Laws.OpcodeByte.packedDI op rd imm

theorem rdField_packWord : rdField (packWord op rd ra rb imm) = rd := by
  apply Fin.ext
  have := sreg_val_lt rd; have := sreg_val_lt ra; have := sreg_val_lt rb
  rw [rdField_val, packWord_toNat]
  omega

theorem raField_packWord : raField (packWord op rd ra rb imm) = ra := by
  apply Fin.ext
  have := sreg_val_lt ra; have := sreg_val_lt rb
  rw [raField_val, packWord_toNat]
  omega

theorem rbField_packWord : rbField (packWord op rd ra rb imm) = rb := by
  apply Fin.ext
  have := sreg_val_lt rb
  rw [rbField_val, packWord_toNat]
  omega

theorem imm12Field_packWord (h : fitsImm12 imm = true) : imm12Field (packWord op rd ra rb imm) = imm := by
  have : imm < 2 ^ 12 := of_decide_eq_true h
  rw [imm12Field_eq, packWord_toNat]
  omega

theorem rdField_packWordDI : rdField (packWordDI op rd imm) = rd := by
  apply Fin.ext
  have := sreg_val_lt rd
  rw [rdField_val, packWordDI_toNat]
  omega

theorem imm16Field_packWordDI (h : fitsImm16 imm = true) : imm16Field (packWordDI op rd imm) = imm := by
  have : imm < 2 ^ 16 := of_decide_eq_true h
  rw [imm16Field_eq, packWordDI_toNat]
  omega

/-! The reserved fields of a packed word are zero in the format of each row (R82, R89). -/

theorem reservedZero_z : Format.z.reservedZero (packWord op 0 0 0 0) := by
  simp only [Format.reservedZero, packWord_toNat, Fin.val_zero]
  omega

theorem reservedZero_d : Format.d.reservedZero (packWord op rd 0 0 0) := by
  simp only [Format.reservedZero, packWord_toNat, Fin.val_zero]
  omega

theorem reservedZero_a : Format.a.reservedZero (packWord op 0 ra 0 0) := by
  have := sreg_val_lt ra
  simp only [Format.reservedZero, packWord_toNat, Fin.val_zero]
  omega

theorem reservedZero_ab : Format.ab.reservedZero (packWord op 0 ra rb 0) := by
  have := sreg_val_lt ra; have := sreg_val_lt rb
  simp only [Format.reservedZero, packWord_toNat, Fin.val_zero]
  omega

theorem reservedZero_da : Format.da.reservedZero (packWord op rd ra 0 0) := by
  simp only [Format.reservedZero, packWord_toNat, Fin.val_zero]
  omega

theorem reservedZero_dab : Format.dab.reservedZero (packWord op rd ra rb 0) := by
  simp only [Format.reservedZero, packWord_toNat]
  omega

theorem reservedZero_di : Format.di.reservedZero (packWordDI op rd imm) := by
  simp only [Format.reservedZero, packWordDI_toNat]
  omega

theorem reservedZero_dc : Format.dc.reservedZero (packWord op rd 0 0 imm) := by
  simp only [Format.reservedZero, packWord_toNat, Fin.val_zero]
  omega

theorem reservedZero_dam : Format.dam.reservedZero (packWord op rd ra 0 imm) := by
  simp only [Format.reservedZero, packWord_toNat, Fin.val_zero]
  omega

theorem reservedZero_abm : Format.abm.reservedZero (packWord op 0 ra rb imm) := by
  have := sreg_val_lt ra; have := sreg_val_lt rb
  simp only [Format.reservedZero, packWord_toNat, Fin.val_zero]
  omega

end PackedFields

section RoundTrip

/-- What the decoder reads from a packed word: its opcode selects the row, whose format check passes (R87). -/
theorem decode_encode (i : Instr) (h : i.wellFormed = true) : decode (encode i) = .ok i := by
  cases i with
  | nop | sreset | vmulw | vmulu | vsqr | nttf | ntti | carry | mul | seed =>
    simp [encode, decode, -opField_toNat, opField_packWord, checkFormat_pass (reservedZero_z _)]
  | residue =>
    simp [encode, decode, -opField_toNat, opField_packWord, checkFormat_pass (reservedZero_d _ _), rdField_packWord]
  | autoinit | run =>
    simp [encode, decode, -opField_toNat, opField_packWord, checkFormat_pass (reservedZero_a _ _), raField_packWord]
  | init | add32 | add64 | sub32 =>
    simp [encode, decode, -opField_toNat, opField_packWord, checkFormat_pass (reservedZero_ab _ _ _), raField_packWord,
      rbField_packWord]
  | mov | fsqr | finv =>
    simp [encode, decode, -opField_toNat, opField_packWord, checkFormat_pass (reservedZero_da _ _ _), rdField_packWord,
      raField_packWord]
  | fadd | fsub | fmul | fred | fpow =>
    simp [encode, decode, -opField_toNat, opField_packWord, checkFormat_pass (reservedZero_dab _ _ _ _),
      rdField_packWord, raField_packWord, rbField_packWord]
  | ldi rd imm =>
    simp [encode, decode, -opField_toNat, -imm16Field_eq, opField_packWordDI, checkFormat_pass (reservedZero_di _ _ _),
      rdField_packWordDI, imm16Field_packWordDI _ _ imm h]
  | rdcr rd imm =>
    simp [encode, decode, -opField_toNat, -imm12Field_eq, opField_packWord, checkFormat_pass (reservedZero_dc _ _ _),
      rdField_packWord, imm12Field_packWord _ _ _ _ imm h]
  | ldx rd ra imm | ldw rd ra imm | ldu rd ra imm | ldd rd ra imm =>
    simp [encode, decode, -opField_toNat, -imm12Field_eq, opField_packWord, checkFormat_pass (reservedZero_dam _ _ _ _),
      rdField_packWord, raField_packWord, imm12Field_packWord _ _ _ _ imm h]
  | stx ra rb imm =>
    simp [encode, decode, -opField_toNat, -imm12Field_eq, opField_packWord, checkFormat_pass (reservedZero_abm _ _ _ _),
      raField_packWord, rbField_packWord, imm12Field_packWord _ _ _ _ imm h]

/-- A word is packed from any operands whose numbers stand in its fields (R81). -/
theorem packWord_eq_of_fields {w : Command} {op : BitVec 8} {rd ra rb : SReg} {imm : Nat}
    (hop : w.toNat / 2 ^ 24 = op.toNat) (hrd : rd.val = w.toNat / 2 ^ 20 % 16) (hra : ra.val = w.toNat / 2 ^ 16 % 16)
    (hrb : rb.val = w.toNat / 2 ^ 12 % 16) (himm : imm = w.toNat % 2 ^ 12) : packWord op rd ra rb imm = w := by
  apply BitVec.eq_of_toNat_eq
  rw [packWord_toNat, ← hop]
  omega

/-- As `packWord_eq_of_fields`, for format DI. -/
theorem packWordDI_eq_of_fields {w : Command} {op : BitVec 8} {rd : SReg} {imm : Nat}
    (hop : w.toNat / 2 ^ 24 = op.toNat) (hrd : rd.val = w.toNat / 2 ^ 20 % 16) (hra : w.toNat / 2 ^ 16 % 16 = 0)
    (himm : imm = w.toNat % 2 ^ 16) : packWordDI op rd imm = w := by
  apply BitVec.eq_of_toNat_eq
  rw [packWordDI_toNat, ← hop]
  omega

/-- The command that a row's format check lets through packs its word again: the operands are the word's fields, and every
field without an operand is zero (R82, R87). -/
theorem encode_decode {w : Command} {i : Instr} (h : decode w = .ok i) : encode i = w ∧ i.wellFormed = true := by
  unfold decode at h
  split at h
  case h_33 => cases h
  all_goals
    rename_i hop
    obtain ⟨hz, rfl⟩ := checkFormat_ok h
    rw [mustBeZero_iff, Format.reservedZero] at hz
    rw [opField_toNat] at hop
  case h_3 =>
    exact ⟨packWordDI_eq_of_fields hop (by simp) (by omega) (by simp), decide_eq_true (by rw [imm16Field_eq]; omega)⟩
  all_goals
    constructor
    · apply packWord_eq_of_fields hop <;> simp <;> omega
    · simp [Instr.wellFormed, fitsImm12, Nat.mod_lt]

end RoundTrip

section OpcodeMap

/-- The format of a command (R85). -/
def Instr.format : Instr → Format
  | .nop | .sreset | .vmulw | .vmulu | .vsqr | .nttf | .ntti | .carry | .mul | .seed => .z
  | .residue _ => .d
  | .autoinit _ | .run _ => .a
  | .init _ _ | .add32 _ _ | .add64 _ _ | .sub32 _ _ => .ab
  | .mov _ _ | .fsqr _ _ | .finv _ _ => .da
  | .fadd _ _ _ | .fsub _ _ _ | .fmul _ _ _ | .fred _ _ _ | .fpow _ _ _ => .dab
  | .ldi _ _ => .di
  | .rdcr _ _ => .dc
  | .ldx _ _ _ | .ldw _ _ _ | .ldu _ _ _ | .ldd _ _ _ => .dam
  | .stx _ _ _ => .abm

/-- The bits a decoder compares are the opcode's eight and the must-be-zero bits, which stand below them (R82). -/
theorem mask_bit (f : Format) : ∀ i < 32, f.mask.getLsbD i = (decide (24 ≤ i) || f.mustBeZero.getLsbD i) ∧
    (f.mustBeZero.getLsbD i = true → i < 24) := by
  cases f <;> decide

/-- A bit of a row's match value: the opcode's bits above 24 zeros (R82). -/
theorem rowMatch_bit (r : OpcodeRow) (i : Nat) :
    (rowMatch r).getLsbD i = (decide (24 ≤ i) && r.1.getLsbD (i - 24)) := by
  rw [rowMatch, BitVec.getLsbD_append]
  by_cases h : i < 24
  · simp [h]
  · simp [h, Nat.le_of_not_lt h]

/-- A word matches a row exactly when it has the row's opcode and its must-be-zero bits are zero (R82). -/
theorem rowMatch_iff (w : Command) (r : OpcodeRow) :
    w &&& r.2.mask = rowMatch r ↔ opField w = r.1 ∧ w &&& r.2.mustBeZero = 0#32 := by
  constructor
  · intro h
    have hbit (i : Nat) (hi : i < 32) := congrArg (fun v => BitVec.getLsbD v i) h
    simp only [BitVec.getLsbD_and, rowMatch_bit] at hbit
    constructor
    · apply BitVec.eq_of_getLsbD_eq
      intro j hj
      have := hbit (24 + j) (by omega)
      rw [(mask_bit r.2 (24 + j) (by omega)).1] at this
      simpa [opField, BitVec.getLsbD_extractLsb', hj] using this
    · apply and_eq_zero_of_bits
      intro i hi hm
      have hlow := (mask_bit r.2 i hi).2 hm
      simpa [(mask_bit r.2 i hi).1, hm, Nat.not_le.2 hlow] using hbit i hi
  · rintro ⟨hop, hz⟩
    apply BitVec.eq_of_getLsbD_eq
    intro i hi
    have hzero : (w.getLsbD i && r.2.mustBeZero.getLsbD i) = false := by
      simpa using congrArg (fun v => BitVec.getLsbD v i) hz
    rw [BitVec.getLsbD_and, rowMatch_bit, (mask_bit r.2 i hi).1, Bool.and_or_distrib_left, hzero, ← hop]
    by_cases h24 : 24 ≤ i
    · have hfit : i - 24 < 8 := Nat.sub_lt_left_of_lt_add h24 hi
      simp [opField, h24, hfit]
    · simp [h24]

/-- The opcode and the format of a command stand together in a row of the opcode map (R85). -/
theorem row_mem_opcodeMap (i : Instr) : (BitVec.ofNat 8 i.opcode, i.format) ∈ opcodeMap := by
  cases i <;> exact of_decide_eq_true rfl

/-- No opcode stands in two rows (R85). -/
theorem opcodeMap_unique : ∀ r ∈ opcodeMap, ∀ r' ∈ opcodeMap, r.1 = r'.1 → r = r' := by decide

/-- A word that decodes matches the row of its command (R82, R85). -/
theorem row_of_decode {w : Command} {i : Instr} (h : decode w = .ok i) :
    opField w = BitVec.ofNat 8 i.opcode ∧ w &&& i.format.mustBeZero = 0#32 := by
  unfold decode at h
  split at h
  case h_33 => cases h
  all_goals
    rename_i hop
    obtain ⟨hz, rfl⟩ := checkFormat_ok h
    exact ⟨BitVec.eq_of_toNat_eq hop, hz⟩

/-- A word that matches a row decodes (R85, R87). -/
theorem decode_of_row {w : Command} {r : OpcodeRow} (hr : r ∈ opcodeMap) (hop : opField w = r.1)
    (hz : w &&& r.2.mustBeZero = 0#32) : ∃ i, decode w = .ok i := by
  have hpass (i : Instr) : checkFormat w r.2 i = .ok i := if_pos hz
  simp only [opcodeMap, kernelOpcodes, arrayOpcodes, engineOpcodes, List.cons_append, List.nil_append, List.mem_cons,
    List.not_mem_nil, or_false] at hr
  unfold decode
  rw [hop]
  rcases hr with rfl | rfl | rfl | rfl | rfl | rfl | rfl | rfl | rfl | rfl | rfl | rfl | rfl | rfl | rfl | rfl | rfl |
    rfl | rfl | rfl | rfl | rfl | rfl | rfl | rfl | rfl | rfl | rfl | rfl | rfl | rfl | rfl <;> exact ⟨_, hpass _⟩

end OpcodeMap

/-- Settles O1: row by row, from the fields of the packed word. -/
theorem decodeOfEncode : Obligations.DecodeOfEncode := decode_encode

/-- Settles O2: row by row, from the fields of the decoded word. -/
theorem encodeOfDecode : Obligations.EncodeOfDecode := fun _ _ => encode_decode

/-- Settles O3: a match is an opcode and zero must-be-zero bits; the opcode alone fixes the row. -/
theorem wordIsCommandIffRowMatches : Obligations.WordIsCommandIffRowMatches := by
  intro w
  refine ⟨⟨?command, ?row⟩, ?unique⟩
  case command =>
    rintro ⟨i, hi⟩
    exact ⟨_, row_mem_opcodeMap i, (rowMatch_iff w _).2 (row_of_decode hi)⟩
  case row =>
    rintro ⟨r, hr, hm⟩
    obtain ⟨hop, hz⟩ := (rowMatch_iff w r).1 hm
    exact decode_of_row hr hop hz
  case unique =>
    intro r hr r' hr' hm hm'
    obtain ⟨hop, -⟩ := (rowMatch_iff w r).1 hm
    obtain ⟨hop', -⟩ := (rowMatch_iff w r').1 hm'
    exact opcodeMap_unique r hr r' hr' (hop.symm.trans hop')

/-- Settles O4: each example word is decoded by evaluation. -/
theorem specExampleWordsDecode : Obligations.SpecExampleWordsDecode := by
  refine ⟨?_, ?_, ?_, ?_, ?_, ?_, ?_, ?_, ?_, ?_, ?_, ?_, ?_, ?_, ?_, ?_, ?_, ?_⟩ <;> rfl

end Sys2Proof
end

section
/-! PROOFS. The sequencer and the host interface (20_memory.md, 60_exceptions.md section 3): what a step does with each
transaction, and the three outcomes of a write to CMD. -/

namespace Sys2Proof.Machine

section Transactions
variable {s : State} {rest : List HostMove}

/-- An engine that is not busy serves the host's next transaction (R62). -/
theorem step_serveIdle {m : HostMove} (hi : s.inbox = m :: rest) (hb : s.status.busy = false) :
    step s = serveIdle m { s with inbox := rest } := by
  simp [step, advance, hi, serve, hb]

/-- A hardware reset is served whether the engine is busy or not (R66, R270). -/
theorem step_reset (hi : s.inbox = .reset :: rest) : step s = .next (hardReset { s with inbox := rest }) := by
  simp [step, advance, hi, serve, serveBusy, serveIdle]

/-- An engine without a transaction waits (R260). -/
theorem step_idle (hi : s.inbox = []) : step s = .next s := by
  simp [step, advance, hi]

/-- An aligned write goes to the register its offset names (R63, R68). -/
theorem step_write {o : Nat} {v : Word} (hi : s.inbox = .write o v :: rest) (hb : s.status.busy = false)
    (h8 : o % 8 = 0) : step s = hostWrite o v { s with inbox := rest } := by
  rw [step_serveIdle hi hb, serveIdle, if_pos h8]

/-- An aligned read returns the register its offset names (R63, R68). -/
theorem step_read {o : Nat} (hi : s.inbox = .read o :: rest) (hb : s.status.busy = false) (h8 : o % 8 = 0) :
    step s = .next { s with inbox := rest, reply := some (hostReadValue o { s with inbox := rest }) } := by
  rw [step_serveIdle hi hb, serveIdle, if_pos h8]

/-- A write to CMD issues the value (R64). -/
theorem step_cmd {v : Word} (hi : s.inbox = .write 0 v :: rest) (hb : s.status.busy = false) :
    step s = issue v { s with inbox := rest } := step_write hi hb (by decide)

end Transactions

section RegisterMap

/-- S k stands at 0x100 + 8k (R63). -/
theorem hostRegister_scalar (k : SReg) : hostRegister (0x100 + 8 * k.val) = .scalar k := by
  have hk := sreg_val_lt k
  have hnum : (0x100 + 8 * k.val - 0x100) / 8 = k.val := by omega
  rw [hostRegister, if_neg (by omega), if_neg (by omega), if_pos (by simp only [Config.NSREG]; omega), hnum,
    Fin.ofNat_val_eq_self]

/-- Control register k stands at 0x040 + 8k (R63). -/
theorem hostRegister_control {k : Nat} (hk : k ≤ 12) : hostRegister (0x040 + 8 * k) = .control k := by
  have hnum : (0x040 + 8 * k - 0x040) / 8 = k := by omega
  rw [hostRegister, if_neg (by omega), if_pos (by omega), hnum]

/-- The aligned offsets between and above the named ones name nothing (R63). -/
theorem hostRegister_unmapped {o : Nat}
    (h : 0x008 ≤ o ∧ o ≤ 0x038 ∨ 0x0A8 ≤ o ∧ o ≤ 0x0F8 ∨ 0x180 ≤ o) : hostRegister o = .unmapped := by
  rw [hostRegister, if_neg (by omega), if_neg (by omega), if_neg (by simp only [Config.NSREG]; omega)]

/-- Only the numbers 0 to 12 name a control register (R27). -/
theorem controlRegister_some {s : State} {k : Nat} {v : Word} (h : controlRegister s k = some v) : k ≤ 12 := by
  unfold controlRegister at h
  split at h
  case h_14 => cases h
  all_goals decide

/-- A read of control register k returns it (R63). -/
theorem hostReadValue_control {s : State} {k : Nat} {v : Word} (h : controlRegister s k = some v) :
    hostReadValue (0x040 + 8 * k) s = v := by
  simp only [hostReadValue, hostRegister_control (controlRegister_some h), h, Option.getD_some]

end RegisterMap

section Issue
variable {v : Word} {s : State}

/-- On an engine that is not halted a legal word runs its command (R64, R91). -/
theorem issue_runs {i : Instr} (hf : s.status.fatal = false) (hv : v.toNat < 2 ^ 32)
    (hd : decode (commandWord v) = .ok i) : issue v s = exec i s := by
  simp [issue, hf, upperZero, hv, hd]

/-- On an engine that is not halted an illegal word, or nonzero upper bits, raise ILLEGAL_CMD (R64, R87). -/
theorem issue_illegal (hf : s.status.fatal = false)
    (h : 2 ^ 32 ≤ v.toNat ∨ ∃ e, decode (commandWord v) = .error e) :
    issue v s = .next (faultState .illegalCmd (commandWord v) v s) := by
  rw [← raiseFault_eq_faultState]
  by_cases hv : v.toNat < 2 ^ 32
  · obtain ⟨e, he⟩ := h.resolve_left (Nat.not_le.2 hv)
    simp [issue, hf, upperZero, hv, he, faultOut]
  · simp [issue, hf, upperZero, hv, faultOut]

/-- A halted engine ignores every value whose low word is not SRESET (R252). -/
theorem issue_halted (hf : s.status.fatal = true) (hw : commandWord v ≠ sresetWord) : issue v s = .next s := by
  simp [issue, hf, hw]

/-- SRESET is issued on every engine, halted or not (R229, R252). -/
theorem issue_sreset (s : State) : issue 0x01000000#64 s = .next (softReset s) := by
  have hw : commandWord 0x01000000#64 = sresetWord := by decide
  have hd : decode sresetWord = .ok .sreset := rfl
  have hz : upperZero 0x01000000#64 = true := by decide
  simp [issue, hw, hd, hz, exec, execSreset]

end Issue

/-- Settles O5: the transaction is a command write, and the sequencer issues its word. -/
theorem stepRunsDecodedCommand : Obligations.StepRunsDecodedCommand := by
  intro s v rest i hb hf hi hv hd
  rw [step_cmd hi hb]
  exact issue_runs hf hv hd

/-- Settles O6: the sequencer finds no command in the value. -/
theorem illegalWordFaults : Obligations.IllegalWordFaults := by
  intro s v rest hb hf hi h
  rw [step_cmd hi hb]
  exact issue_illegal hf h

section ScalarAccess
variable {s : State} {rest : List HostMove}

/-- A host write of a scalar register changes that register only (R63), also on a halted engine (R252). -/
theorem step_write_scalar {k : SReg} {v : Word} (hb : s.status.busy = false)
    (hi : s.inbox = .write (0x100 + 8 * k.val) v :: rest) :
    ∃ t, step s = .next t ∧ OnlyScalar k v { s with inbox := rest } t := by
  refine completes_onlyScalar ?_
  rw [step_write hi hb (by omega), hostWrite, hostRegister_scalar]

/-- A host read of a scalar register returns it (R63). -/
theorem step_read_scalar {k : SReg} (hb : s.status.busy = false) (hi : s.inbox = .read (0x100 + 8 * k.val) :: rest) :
    step s = .next { s with inbox := rest, reply := some (s.readS k) } := by
  rw [step_read hi hb (by omega), hostReadValue, hostRegister_scalar]
  rfl

end ScalarAccess

/-- Settles O7: the three outcomes of a write to CMD on a halted engine, and the scalar registers as on any other. -/
theorem haltedEngineIgnoresAllButSreset : Obligations.HaltedEngineIgnoresAllButSreset := by
  intro s rest hb hf
  refine ⟨fun v hi hw => ?ignored, fun hi => ?sreset, fun k v hi => step_write_scalar hb hi,
    fun k hi => step_read_scalar hb hi⟩
  case ignored =>
    rw [step_cmd hi hb]
    exact issue_halted hf hw
  case sreset =>
    rw [step_cmd hi hb]
    exact issue_sreset _

/-- Settles O8: each offset names its register, and each access goes to the register its offset names. -/
theorem hostRegisterMap : Obligations.HostRegisterMap := by
  intro s rest hb
  refine ⟨fun k v hi => step_write_scalar hb hi, fun k hi => step_read_scalar hb hi, fun k v hk hi => ?writeControl,
    fun k v hv hi => ?readControl, fun hi => ?readCmd,
    fun o h8 ho => ⟨fun hi => ?readUnmapped, fun v hi => ?writeUnmapped⟩,
    fun o h8 => ⟨fun hi => ?readMisaligned, fun v hi => ?writeMisaligned⟩, fun o b hi => ?narrow⟩
  case writeControl => rw [step_write hi hb (by omega), hostWrite, hostRegister_control hk]
  case readControl =>
    have hv' : controlRegister { s with inbox := rest } k = some v := hv
    rw [step_read hi hb (by omega), hostReadValue_control hv']
  case readCmd => exact step_read hi hb (by decide)
  case readUnmapped => rw [step_read hi hb h8, hostReadValue, hostRegister_unmapped ho]
  case writeUnmapped => rw [step_write hi hb h8, hostWrite, hostRegister_unmapped ho]
  case readMisaligned => rw [step_serveIdle hi hb, serveIdle, if_neg h8]
  case writeMisaligned => rw [step_serveIdle hi hb, serveIdle, if_neg h8]
  case narrow => rw [step_serveIdle hi hb, serveIdle]

/-- Settles O9: the served reset is `hardReset`, field by field; R25 leaves the scalar registers unstated. -/
theorem hardwareResetValues : Obligations.HardwareResetValues := fun s rest hi =>
  ⟨hardReset { s with inbox := rest }, step_reset hi, rfl, rfl, rfl, rfl, rfl, rfl, rfl, rfl, rfl, rfl, rfl, rfl, rfl⟩

/-- Settles O10: the fixed state is evaluated. -/
theorem resetControlRegisters : Obligations.ResetControlRegisters := by
  refine ⟨?_, rfl, rfl, rfl⟩
  decide

/-- Settles O11: SRESET is `softReset`, field by field. -/
theorem sresetKeepsScalars : Obligations.SresetKeepsScalars := fun s =>
  ⟨softReset s, rfl, rfl, rfl, rfl, rfl, rfl, rfl, rfl, rfl, rfl, rfl, rfl, rfl⟩

/-- Settles O59: with no transaction listed, a step is idle. -/
theorem idleEngineWaits : Obligations.IdleEngineWaits := fun _ => step_idle

/-- Settles O55: nothing is initialised, halted or recorded after reset. -/
theorem resetMeetsMachineInvariant : Obligations.ResetMeetsMachineInvariant where
  idle := rfl
  logn_le := by decide
  tables := fun h => absurd h (by decide)
  no_tables := fun _ => ⟨rfl, rfl⟩
  halted := by decide
  fail_init := by decide
  no_record := fun _ _ => ⟨rfl, rfl⟩
  fault_reserved := by decide

end Sys2Proof.Machine
end

section
/-! PROOFS. The operand checks and the commands that end in one check or one write (40_modular_kernel.md section 2,
45_access_system.md, 41_vector_ops.md): a command is its checks in the order of R248 and then one write, so each statement
is a check that stops or all checks that pass. -/

namespace Sys2Proof.Machine

/-! ### The checks that stop, in the terms of the statements -/

section Stops
variable {cmdw : Command} {s : State} {rest : Outcome}

/-- NOT_INIT of an engine without initialisation (R91, R243). -/
theorem needInit_faults (h : s.status.initok = false) :
    needInit cmdw s rest = .next (faultState .notInit cmdw 0#64 s) := by
  rw [needInit_stop _ _ _ h, raiseFault_eq_faultState]

/-- NONCANON of a value that is no field element (R107, R243). -/
theorem needField_faults {v : Word} (h : Config.P ≤ v.toNat) :
    needField cmdw v s rest = .next (faultState .noncanon cmdw v s) := by
  rw [needField_stop _ _ _ _ (Nat.not_lt.2 h), raiseFault_eq_faultState]

/-- INDEX_RANGE of an index that names no limb (R71, R243). -/
theorem needIndex_faults {i : Nat} (h : s.n ≤ i) :
    needIndex cmdw i s rest = .next (faultState .indexRange cmdw (wordOf i) s) := by
  rw [needIndex_stop _ _ _ _ (Nat.not_lt.2 h), raiseFault_eq_faultState]

/-- INDEX_RANGE of an index that a register holds: the information is the register (R186). -/
theorem needIndex_register_faults {v : Word} (h : s.n ≤ v.toNat) :
    needIndex cmdw v.toNat s rest = .next (faultState .indexRange cmdw v s) := by
  rw [needIndex_faults h, wordOf, BitVec.ofNat_toNat, BitVec.setWidth_eq]

/-- BAD_ARG of an argument out of its range (R242, R243). -/
theorem needArg_faults {p : Prop} [Decidable p] {v : Word} (h : ¬p) :
    needArg (decide p) cmdw v s rest = .next (faultState .badArg cmdw v s) := by
  rw [needArg_stop _ _ _ _ _ (decide_eq_false h), raiseFault_eq_faultState]

/-- An argument in its range passes its check. -/
theorem needArg_decide_pass {p : Prop} [Decidable p] {v : Word} (h : p) : needArg (decide p) cmdw v s rest = rest :=
  needArg_pass _ _ _ _ _ (decide_eq_true h)

end Stops

/-- Settles O15: NOT_INIT is the first check of every command that needs an initialised engine. -/
theorem uninitialisedCommandsFault : Obligations.UninitialisedCommandsFault := by
  intro i s hneeds hi
  cases i with
  | vmulw | vmulu | vsqr | nttf | ntti | carry | add32 | add64 | sub32 | mul | seed | run | residue | ldx | stx | ldw
  | ldu | ldd => exact needInit_faults hi
  | nop | sreset | ldi | rdcr | mov | fadd | fsub | fmul | fsqr | fred | fpow | finv | init | autoinit =>
    exact absurd hneeds Bool.false_ne_true

/-- Settles O20: the check of `S[ra]` comes first, then that of `S[rb]`; FINV checks for 0 last. -/
theorem kernelOperandFaults : Obligations.KernelOperandFaults := by
  intro s rd ra rb
  refine ⟨fun ha => ?first, fun ha hb => ?second, fun h0 => ?zero⟩
  case first =>
    exact ⟨needField_faults ha, needField_faults ha, needField_faults ha, needField_faults ha, needField_faults ha,
      needField_faults ha⟩
  case second =>
    have stop (cmdw : Command) (o : Outcome) :
        needField cmdw (s.readS ra) s (needField cmdw (s.readS rb) s o) =
          .next (faultState .noncanon cmdw (s.readS rb) s) := by
      rw [needField_pass _ _ _ _ ha, needField_faults hb]
    exact ⟨stop _ _, stop _ _, stop _ _⟩
  case zero =>
    have ha : (s.readS ra).toNat < Config.P := by rw [h0]; decide
    rw [exec, execFinv, needField_pass _ _ _ _ ha, if_pos h0, faultOut, raiseFault_eq_faultState]

/-- Settles O21: each is one write without a check. -/
theorem nopLoadImmediateMove : Obligations.NopLoadImmediateMove := fun _ _ _ _ =>
  ⟨rfl, completes_onlyScalar rfl, completes_onlyScalar rfl⟩

section ControlRegisters
variable {s : State} {rd : SReg} {k : Nat} {v : Word}

/-- RDCR of a number that names a control register writes it to `S[rd]` (R225). -/
theorem exec_rdcr_of_some (h : controlRegister s k = some v) : exec (.rdcr rd k) s = .next (s.writeS rd v) := by
  simp only [exec, execRdcr, h]

/-- The numbers above 12 name no control register (R27). -/
theorem controlRegister_none (s : State) (hk : 12 < k) : controlRegister s k = none := by
  rw [Option.eq_none_iff_forall_ne_some]
  intro v hv
  exact absurd (controlRegister_some hv) (Nat.not_le.2 hk)

/-- RDCR of a number that names none is BAD_ARG (R225). -/
theorem exec_rdcr_of_gt (hk : 12 < k) :
    exec (.rdcr rd k) s = .next (faultState .badArg (encode (.rdcr rd k)) (wordOf k) s) := by
  simp only [exec, execRdcr, controlRegister_none s hk, faultOut, raiseFault_eq_faultState]

end ControlRegisters

/-- Settles O22: register by register, what `controlRegister` holds. -/
theorem readControlRegister : Obligations.ReadControlRegister := by
  intro s rd
  have reads {k : Nat} {v : Word} (h : controlRegister s k = some v) :
      ∃ t, exec (.rdcr rd k) s = .next t ∧ OnlyScalar rd v s t := completes_onlyScalar (exec_rdcr_of_some h)
  refine ⟨reads ?status, reads rfl, reads rfl, reads rfl, reads ?logn, reads ?length, reads rfl, reads rfl, reads ?strat,
    reads rfl, reads rfl, reads rfl, reads rfl⟩
  case status => simp [controlRegister, statusWord, flagBit]
  case logn => exact congrArg some (BitVec.eq_of_toNat_eq (by simp))
  case length => cases hi : s.status.initok <;> simp [controlRegister, lengthWord, hi, State.n]
  case strat => cases hs : s.strat <;> simp [controlRegister, strategyWord, hs]

/-- Settles O23: each argument check in the order of R248. -/
theorem argumentFaults : Obligations.ArgumentFaults := by
  intro s rd ra rb k
  refine ⟨fun hl => needArg_faults (Nat.not_le.2 hl), fun hl hq => ?initExponent,
    fun hq => needArg_faults (Nat.not_le.2 hq),
    fun hi hc => ⟨?add, ?sub⟩, exec_rdcr_of_gt⟩
  case initExponent =>
    exact (needArg_decide_pass hl).trans (needArg_faults (Nat.not_le.2 hq))
  case add => exact (needInit_pass _ _ _ hi).trans (needArg_faults (Nat.not_lt.2 hc))
  case sub => exact (needInit_pass _ _ _ hi).trans (needArg_faults (Nat.not_lt.2 hc))

section CellAccess
variable {s : State} {cmdw : Command} {rd : SReg} {idx : Nat} {v : Word}

/-- A load of a cell that exists writes it to `S[rd]` (R220). -/
theorem loadCell_of_lt (hi : s.status.initok = true) (h : idx < s.n) :
    loadCell cmdw rd idx v s = .next (s.writeS rd v) := by
  rw [loadCell, needInit_pass _ _ _ hi, needIndex_pass _ _ _ _ h]

/-- A load of a cell that does not exist is INDEX_RANGE (R71, R220). -/
theorem loadCell_of_ge (hi : s.status.initok = true) (h : s.n ≤ idx) :
    loadCell cmdw rd idx v s = .next (faultState .indexRange cmdw (wordOf idx) s) := by
  rw [loadCell, needInit_pass _ _ _ hi, needIndex_faults h]

/-- STX of a field element to a cell that exists writes the cell (R222). -/
theorem exec_stx_of_lt {ra rb : SReg} {imm : Nat} (hi : s.status.initok = true)
    (h : (s.readS ra).toNat + imm < s.n) (hv : (s.readS rb).toNat < Config.P) :
    exec (.stx ra rb imm) s = .next (s.writeX ((s.readS ra).toNat + imm) (s.readS rb)) := by
  rw [exec, execStx, needInit_pass _ _ _ hi, cellIndex, needIndex_pass _ _ _ _ h, needField_pass _ _ _ _ hv]

end CellAccess

/-- Settles O24: the index check of each command, and the check of STX that comes after it. -/
theorem indexAndStoreFaults : Obligations.IndexAndStoreFaults := by
  intro s rd ra rb imm hi
  refine ⟨fun h => ⟨loadCell_of_ge hi h, loadCell_of_ge hi h, loadCell_of_ge hi h, loadCell_of_ge hi h, ?store⟩,
    fun h hv => ?value, fun h => ⟨?add64, fun hc => ⟨?add32, ?sub32⟩⟩⟩
  case store => exact (needInit_pass _ _ _ hi).trans (needIndex_faults h)
  case value =>
    exact (needInit_pass _ _ _ hi).trans ((needIndex_pass _ _ _ _ h).trans (needField_faults hv))
  case add64 => exact (needInit_pass _ _ _ hi).trans (needIndex_register_faults h)
  case add32 =>
    exact (needInit_pass _ _ _ hi).trans ((needArg_decide_pass hc).trans (needIndex_register_faults h))
  case sub32 =>
    exact (needInit_pass _ _ _ hi).trans ((needArg_decide_pass hc).trans (needIndex_register_faults h))

/-- Settles O25: the four loads are one load of a cell, from four lists. -/
theorem loadsReadOneCell : Obligations.LoadsReadOneCell := fun _ _ _ _ hi h =>
  ⟨completes_onlyScalar (loadCell_of_lt hi h), completes_onlyScalar (loadCell_of_lt hi h),
    completes_onlyScalar (loadCell_of_lt hi h), completes_onlyScalar (loadCell_of_lt hi h)⟩

/-- Settles O26: the store is `writeX`, and the cells of a written list are known. -/
theorem storeWritesOneCell : Obligations.StoreWritesOneCell := by
  intro s ra rb imm hi hlen h hv
  refine ⟨_, exec_stx_of_lt hi h hv, ⟨rfl, ?length⟩, ?written, fun j hj => ?other⟩
  case length => simp
  case written => exact cell_set_same _ _ _ (hlen ▸ h)
  case other => exact cell_set_other _ _ _ _ hj

/-! ### The elementwise operations -/

/-- A command on an initialised engine that writes as many limbs as there were completes and changes X only. -/
theorem completes_onlyX {cmdw : Command} {s : State} {l : List Word} {Q : State → Prop} (hi : s.status.initok = true)
    (hl : l.length = s.mem.x.length) (hQ : Q (s.setX l)) :
    ∃ t, needInit cmdw s (.next (s.setX l)) = .next t ∧ OnlyX s t ∧ Q t :=
  ⟨s.setX l, needInit_pass _ _ _ hi, onlyX_setX hl, hQ⟩

/-- Settles O27: the cells of the two elementwise operations. -/
theorem vectorCommandsCellwise : Obligations.VectorCommandsCellwise := by
  intro s hi hw hu
  refine ⟨completes_onlyX hi (by simp [hw]) fun i hx => ?weight, completes_onlyX hi (by simp [hu]) fun i hx => ?unweight,
    completes_onlyX hi (by simp) fun i hx => ?square⟩
  case weight => exact vectorMul_cell _ _ i hx (hw ▸ hx)
  case unweight => exact vectorMul_cell _ _ i hx (hu ▸ hx)
  case square =>
    rw [← fsqr_eq]
    exact vectorSqr_cell _ i hx

end Sys2Proof.Machine
end

section
/-! PROOFS. What a command can do at all. `CommandEffect` lists the outcomes of the commands other than INIT, AUTOINIT and
SRESET; `exec_effect` derives it once from the meanings, and the statements about what stays unchanged (O12 to O14) are
read off it. -/

namespace Sys2Proof.Machine

/-- All that a command other than INIT, AUTOINIT and SRESET can leave: the state as it was, a fault's record, one scalar
register, a new X with the canonical form and a new ICNT, or what RESIDUE writes. -/
inductive CommandEffect (i : Instr) (s : State) : State → Prop where
  | nothing : CommandEffect i s s
  | faulted (code : FaultCode) (info : Word) : CommandEffect i s (raiseFault code (encode i) info s)
  | scalar (rd : SReg) (v : Word) (hd : destination i = some rd) : CommandEffect i s (s.writeS rd v)
  | limbs (l : List Word) (c : Word) (hi : s.status.initok = true)
      (hwf : s.mem.wf = true → s.mem.x.length = s.n → ({ s.mem with x := l } : Memory).wf = true) :
      CommandEffect i s ((s.setX l).setIcnt c)
  | residue (rd : SReg) (v : Word) (b : Bool) (hd : destination i = some rd) (hi : s.status.initok = true) :
      CommandEffect i s (((s.writeS rd v).setResid v).setZ b)

section Checks
variable {i : Instr} {s t : State} {rest : Outcome}

/-- A passed check leaves the effect to the rest of the meaning, a failed one records its fault. -/
theorem needInit_effect (h : needInit (encode i) s rest = .next t)
    (hr : s.status.initok = true → rest = .next t → CommandEffect i s t) : CommandEffect i s t := by
  rcases needInit_cases _ _ _ _ h with ⟨hi, h⟩ | ⟨-, rfl⟩
  · exact hr hi h
  · exact .faulted _ _

theorem needField_effect {v : Word} (h : needField (encode i) v s rest = .next t)
    (hr : rest = .next t → CommandEffect i s t) : CommandEffect i s t := by
  rcases needField_cases _ _ _ _ _ h with ⟨-, h⟩ | ⟨-, rfl⟩
  · exact hr h
  · exact .faulted _ _

theorem needIndex_effect {k : Nat} (h : needIndex (encode i) k s rest = .next t)
    (hr : rest = .next t → CommandEffect i s t) : CommandEffect i s t := by
  rcases needIndex_cases _ _ _ _ _ h with ⟨-, h⟩ | ⟨-, rfl⟩
  · exact hr h
  · exact .faulted _ _

theorem needArg_effect {ok : Bool} {v : Word} (h : needArg ok (encode i) v s rest = .next t)
    (hr : rest = .next t → CommandEffect i s t) : CommandEffect i s t := by
  rcases needArg_cases _ _ _ _ _ _ h with ⟨-, h⟩ | ⟨-, rfl⟩
  · exact hr h
  · exact .faulted _ _

/-- A meaning that ends in the write of its destination. -/
theorem writeS_effect {rd : SReg} {v : Word} (hd : destination i = some rd)
    (h : (.next (s.writeS rd v) : Outcome) = .next t) : CommandEffect i s t := by
  cases h
  exact .scalar rd v hd

theorem loadCell_effect {rd : SReg} {idx : Nat} {v : Word} (hd : destination i = some rd)
    (h : loadCell (encode i) rd idx v s = .next t) : CommandEffect i s t :=
  needInit_effect h fun _ h => needIndex_effect h (writeS_effect hd)

/-- A meaning that ends in the write of a whole X. -/
theorem setX_effect {l : List Word} (hi : s.status.initok = true)
    (hwf : s.mem.wf = true → ({ s.mem with x := l } : Memory).wf = true)
    (h : (.next (s.setX l) : Outcome) = .next t) : CommandEffect i s t := by
  cases h
  exact .limbs l s.icnt hi fun hm _ => hwf hm

/-- A carry loop that ends leaves the X it computed (R187, R190). -/
theorem finishX_effect {x : Option (List Word)} (hi : s.status.initok = true)
    (hwf : ∀ l, x = some l → s.mem.wf = true → ({ s.mem with x := l } : Memory).wf = true)
    (h : finishX x s = .next t) : CommandEffect i s t := by
  obtain ⟨l, hl, rfl⟩ := finishX_next h
  exact setX_effect hi (hwf l hl) rfl

end Checks

section Squaring

/-- MUL_PROC keeps the canonical form of the memories (R195). -/
theorem Memory.wf_mulProc {s t : State} (hs : s.mem.wf = true) (h : mulProc s = some t) : t.mem.wf = true := by
  obtain ⟨l, hl, rfl⟩ := mulProc_some h
  exact Memory.wf_mulX hs hl

/-- Repeated squaring keeps the canonical form of the memories (R202). -/
theorem Memory.wf_repeatMul {count : Nat} {s t : State} (hs : s.mem.wf = true) (h : repeatMul count s = some t) :
    t.mem.wf = true := by
  induction count generalizing s with
  | zero =>
    cases h
    exact hs
  | succ count ih =>
    rw [repeatMul_succ] at h
    obtain ⟨u, hu, h⟩ := Option.bind_eq_some_iff.mp h
    exact ih (Memory.wf_mulProc hs hu) h

/-- MUL changes X and ICNT (R195). -/
theorem execMul_effect {s t : State} (h : execMul s = .next t) : CommandEffect .mul s t := by
  refine needInit_effect h fun hi h => ?_
  obtain ⟨l, hl, rfl⟩ := mulProc_some (finishState_next h)
  exact .limbs l _ hi fun hm _ => Memory.wf_mulX hm hl

/-- RUN changes X and ICNT (R202). -/
theorem execRun_effect {ra : SReg} {s t : State} (h : execRun ra s = .next t) : CommandEffect (.run ra) s t := by
  refine needInit_effect h fun hi h => ?_
  have hrun : repeatMul (runCount s (s.readS ra).toNat) (seedProc s) = some t := finishState_next h
  obtain ⟨l, rfl⟩ := repeatMul_some hrun
  exact .limbs l _ hi fun hm hn => Memory.wf_repeatMul (Memory.wf_seedProc hm hn) hrun

end Squaring

/-- Every command but INIT, AUTOINIT and SRESET ends in one of the listed effects. -/
theorem exec_effect {i : Instr} {s t : State} (h : exec i s = .next t) (hinit : ∀ ra rb, i ≠ .init ra rb)
    (hauto : ∀ ra, i ≠ .autoinit ra) (hsreset : i ≠ .sreset) : CommandEffect i s t := by
  cases i with
  | init ra rb => exact absurd rfl (hinit ra rb)
  | autoinit ra => exact absurd rfl (hauto ra)
  | sreset => exact absurd rfl hsreset
  | nop =>
    cases h
    exact .nothing
  | ldi | mov | fred => exact writeS_effect rfl h
  | rdcr rd k =>
    simp only [exec, execRdcr] at h
    split at h
    · exact writeS_effect rfl h
    · cases h
      exact .faulted _ _
  | fadd | fsub | fmul => exact needField_effect h fun h => needField_effect h (writeS_effect rfl)
  | fsqr | fpow => exact needField_effect h (writeS_effect rfl)
  | finv rd ra =>
    refine needField_effect h fun h => ?_
    split at h
    · cases h
      exact .faulted _ _
    · exact writeS_effect rfl h
  | vmulw =>
    exact needInit_effect h fun hi => setX_effect hi fun hm => Memory.wf_vectorMul hm _ ((Memory.wf_iff _).1 hm).1
  | vmulu =>
    exact needInit_effect h fun hi => setX_effect hi fun hm => Memory.wf_vectorMul hm _ ((Memory.wf_iff _).1 hm).2.1
  | vsqr => exact needInit_effect h fun hi => setX_effect hi Memory.wf_vectorSqr
  | nttf | ntti => exact needInit_effect h fun hi => setX_effect hi fun hm => Memory.wf_transform hm _
  | carry => exact needInit_effect h fun hi => finishX_effect hi fun l hl hm => Memory.wf_carryProc hm hl
  | add32 =>
    exact needInit_effect h fun hi h => needArg_effect h fun h => needIndex_effect h
      (finishX_effect hi fun l hl hm => Memory.wf_addProc hm hl)
  | add64 =>
    exact needInit_effect h fun hi h => needIndex_effect h (finishX_effect hi fun l hl hm => Memory.wf_addProc hm hl)
  | sub32 =>
    exact needInit_effect h fun hi h => needArg_effect h fun h => needIndex_effect h
      (finishX_effect hi fun l hl hm => Memory.wf_subProc hm hl)
  | mul => exact execMul_effect h
  | seed =>
    refine needInit_effect h fun hi h => ?_
    cases h
    exact .limbs _ _ hi Memory.wf_seedProc
  | run => exact execRun_effect h
  | residue rd =>
    refine needInit_effect h fun hi h => ?_
    cases h
    exact .residue rd _ _ rfl hi
  | ldx | ldw | ldu | ldd => exact loadCell_effect rfl h
  | stx ra rb imm =>
    refine needInit_effect h fun hi h => needIndex_effect h fun h => ?_
    rcases needField_cases _ _ _ _ _ h with ⟨hv, h⟩ | ⟨-, rfl⟩
    · exact setX_effect hi (fun hm => Memory.wf_set hm _ hv) h
    · exact .faulted _ _

section RaiseFault
variable (code : FaultCode) (cmdw : Command) (info : Word) (s : State)

/-- Raising a fault writes FAULT, FINFO and ERR only (R243). -/
theorem raiseFault_frame :
    ∃ e f g, raiseFault code cmdw info s = { s with status := { s.status with err := e }, fault := f, finfo := g } := by
  rcases raiseFault_cases code cmdw info s with h | ⟨-, -, h⟩
  · exact ⟨s.status.err, s.fault, s.finfo, h⟩
  · exact ⟨_, _, _, h⟩

end RaiseFault

/-- What INIT_PROC leaves as it was, whatever its outcome: the scalar registers, ERR, and the record of a fault that stands
(R160, R245). -/
structure InitFrame (s t : State) : Prop where
  scalars : t.scalars = s.scalars
  err : t.status.err = s.status.err
  record : s.status.err = true → t.fault = s.fault ∧ t.finfo = s.finfo

section InitFrames
variable {s t u : State}

theorem InitFrame.refl (s : State) : InitFrame s s := ⟨rfl, rfl, fun _ => ⟨rfl, rfl⟩⟩

theorem InitFrame.trans (h : InitFrame s t) (h' : InitFrame t u) : InitFrame s u where
  scalars := h'.scalars.trans h.scalars
  err := h'.err.trans h.err
  record he := by
    obtain ⟨hf, hg⟩ := h.record he
    obtain ⟨hf', hg'⟩ := h'.record (h.err.trans he)
    exact ⟨hf'.trans hf, hg'.trans hg⟩

/-- A fatal halt keeps a record that stands (R245). -/
theorem initFrame_fatalHalt (code : FaultCode) (cmdw : Command) (info : Word) (s : State) :
    InitFrame s (fatalHalt code cmdw info s) := by
  rw [fatalHalt_eq]
  exact ⟨rfl, rfl, fun he => ⟨if_pos he, if_pos he⟩⟩

theorem initFrame_initProc (cmdw : Command) (logn q : Nat) (s : State) :
    InitFrame s (initProc cmdw logn q s).2 := by
  have hstart : InitFrame s { initStart logn q s with root2 := wordOf (rootTwo (2 ^ logn)) } :=
    ⟨rfl, rfl, fun _ => ⟨rfl, rfl⟩⟩
  rcases initProc_cases cmdw logn q s with ⟨-, h⟩ | ⟨-, -, h⟩ | ⟨-, -, -, h⟩ | ⟨-, -, -, h⟩ <;> rw [h]
  case inl => exact ⟨rfl, rfl, fun _ => ⟨rfl, rfl⟩⟩
  case inr.inl => exact hstart.trans (initFrame_fatalHalt _ _ _ _)
  case inr.inr.inl => exact hstart.trans ⟨rfl, rfl, fun _ => ⟨rfl, rfl⟩⟩
  case inr.inr.inr => exact hstart.trans ⟨rfl, rfl, fun _ => ⟨rfl, rfl⟩⟩

theorem initFrame_autoInit (cmdw : Command) (q : Nat) (sizes : List Nat) (s : State) :
    InitFrame s (autoInit cmdw q sizes s) :=
  autoInit_induction (Pr := InitFrame s) sizes s (InitFrame.refl s)
    (fun l _ u hu => hu.trans (initFrame_initProc cmdw l q u)) fun u hu => hu.trans (initFrame_fatalHalt _ _ _ u)

/-- INIT leaves a fault's record, or its frame as it was (R160, R162). -/
theorem exec_init_frame {ra rb : SReg} (h : exec (.init ra rb) s = .next t) :
    (∃ code info, t = raiseFault code (encode (.init ra rb)) info s) ∨ InitFrame s t := by
  rcases execInit_cases h with rfl | rfl | ⟨-, -, rfl⟩
  · exact .inl ⟨_, _, rfl⟩
  · exact .inl ⟨_, _, rfl⟩
  · exact .inr (initFrame_initProc _ _ _ s)

/-- As `exec_init_frame`, for AUTOINIT (R165). -/
theorem exec_autoinit_frame {ra : SReg} (h : exec (.autoinit ra) s = .next t) :
    (∃ code info, t = raiseFault code (encode (.autoinit ra)) info s) ∨ InitFrame s t := by
  rcases execAutoinit_cases h with rfl | ⟨-, rfl⟩
  · exact .inl ⟨_, _, rfl⟩
  · exact .inr (initFrame_autoInit _ _ _ s)

end InitFrames

/-- A recorded fault leaves every scalar register (R243). -/
theorem readS_raiseFault (code : FaultCode) (cmdw : Command) (info : Word) (s : State) (r : SReg) :
    (raiseFault code cmdw info s).readS r = s.readS r := by
  obtain ⟨e, f, g, h⟩ := raiseFault_frame code cmdw info s
  rw [h]
  rfl

/-- A state with the same scalar registers reads alike. -/
theorem readS_of_scalars_eq {s t : State} (h : t.scalars = s.scalars) (r : SReg) : t.readS r = s.readS r := by
  rw [State.readS, State.readS, h]

/-- An effect writes no scalar register but the destination (R24). -/
theorem CommandEffect.readS_eq {i : Instr} {s t : State} {r : SReg} (h : CommandEffect i s t)
    (hr : destination i ≠ some r) : t.readS r = s.readS r := by
  have hne {rd : SReg} (hd : destination i = some rd) : r ≠ rd := fun e => hr (e ▸ hd)
  cases h with
  | nothing => rfl
  | faulted => exact readS_raiseFault _ _ _ _ _
  | scalar rd v hd => exact readS_writeS_other _ _ _ _ (hne hd)
  | limbs => rfl
  | residue rd v b hd => exact readS_writeS_other _ _ _ _ (hne hd)

/-- Settles O13: by the effects of the commands; INIT, AUTOINIT and SRESET keep every scalar register. -/
theorem onlyDestinationWritten : Obligations.OnlyDestinationWritten := by
  intro i s t r h hr
  by_cases hsreset : i = .sreset
  · subst hsreset
    cases h
    rfl
  by_cases hinit : ∃ ra rb, i = .init ra rb
  · obtain ⟨ra, rb, rfl⟩ := hinit
    rcases exec_init_frame h with ⟨code, info, rfl⟩ | hframe
    · exact readS_raiseFault _ _ _ _ _
    · exact readS_of_scalars_eq hframe.scalars r
  by_cases hauto : ∃ ra, i = .autoinit ra
  · obtain ⟨ra, rfl⟩ := hauto
    rcases exec_autoinit_frame h with ⟨code, info, rfl⟩ | hframe
    · exact readS_raiseFault _ _ _ _ _
    · exact readS_of_scalars_eq hframe.scalars r
  · push Not at hinit hauto
    exact (exec_effect h hinit hauto hsreset).readS_eq hr

/-- Settles O14: no effect writes a table, a register of the tables, INITOK, FAIL or FATAL. -/
theorem tablesAreImmutable : Obligations.TablesAreImmutable := by
  intro i s t h hinit hauto hsreset
  cases exec_effect h hinit hauto hsreset with
  | faulted code info =>
    obtain ⟨e, f, g, he⟩ := raiseFault_frame code (encode i) info s
    rw [he]
    exact ⟨rfl, rfl, rfl, rfl, rfl, rfl, rfl, rfl, rfl, rfl, rfl⟩
  | nothing | scalar | limbs | residue => exact ⟨rfl, rfl, rfl, rfl, rfl, rfl, rfl, rfl, rfl, rfl, rfl⟩

/-! ### The record of faults -/

/-- The record of a fault and the two flags that say it stands are kept (R29, R249). -/
def RecordKept (s t : State) : Prop :=
  t.fault = s.fault ∧ t.finfo = s.finfo ∧
    (s.status.err = true → t.status.err = true) ∧ (s.status.fatal = true → t.status.fatal = true)

theorem RecordKept.refl (s : State) : RecordKept s s := ⟨rfl, rfl, id, id⟩

/-- An effect on an engine with a recorded fault keeps the record (R243 b). -/
theorem CommandEffect.recordKept {i : Instr} {s t : State} (h : CommandEffect i s t) (he : s.status.err = true) :
    RecordKept s t := by
  cases h with
  | faulted code info =>
    rw [raiseFault_later _ _ _ _ (.inl he)]
    exact RecordKept.refl s
  | nothing | scalar | limbs | residue => exact ⟨rfl, rfl, id, id⟩

/-- INIT and AUTOINIT on an engine with a recorded fault that is not halted keep the record (R245). -/
theorem InitFrame.recordKept {s t : State} (h : InitFrame s t) (he : s.status.err = true)
    (hf : s.status.fatal = false) : RecordKept s t :=
  ⟨(h.record he).1, (h.record he).2, fun _ => h.err.trans he, fun h => absurd (hf.symm.trans h) (by decide)⟩

/-- Every command but SRESET keeps the record of an engine that is not halted (R249). -/
theorem exec_recordKept {i : Instr} {s t : State} (h : exec i s = .next t) (hsreset : i ≠ .sreset)
    (he : s.status.err = true) (hf : s.status.fatal = false) : RecordKept s t := by
  have hlater (code : FaultCode) (cmdw : Command) (info : Word) : RecordKept s (raiseFault code cmdw info s) := by
    rw [raiseFault_later _ _ _ _ (.inl he)]
    exact RecordKept.refl s
  by_cases hinit : ∃ ra rb, i = .init ra rb
  · obtain ⟨ra, rb, rfl⟩ := hinit
    rcases exec_init_frame h with ⟨code, info, rfl⟩ | hframe
    · exact hlater _ _ _
    · exact hframe.recordKept he hf
  by_cases hauto : ∃ ra, i = .autoinit ra
  · obtain ⟨ra, rfl⟩ := hauto
    rcases exec_autoinit_frame h with ⟨code, info, rfl⟩ | hframe
    · exact hlater _ _ _
    · exact hframe.recordKept he hf
  · push Not at hinit hauto
    exact (exec_effect h hinit hauto hsreset).recordKept he

/-- The value whose low word is SRESET and whose upper bits are zero is one value (R64). -/
theorem eq_sreset_value {v : Word} (hv : v.toNat < 2 ^ 32) (h : commandWord v = sresetWord) : v = 0x01000000#64 := by
  apply BitVec.eq_of_toNat_eq
  have hlow := congrArg BitVec.toNat h
  rw [commandWord, BitVec.extractLsb'_toNat, Nat.shiftRight_zero, Nat.mod_eq_of_lt hv] at hlow
  exact hlow

/-- A write to CMD other than SRESET keeps the record (R248, R249, R252). -/
theorem issue_recordKept {v : Word} {s t : State} (h : issue v s = .next t) (hv : v ≠ 0x01000000#64)
    (hrec : s.status.err = true ∨ s.status.fatal = true) : RecordKept s t := by
  rcases issue_cases v s with ⟨-, -, hi⟩ | hi | ⟨hhalt, hlt, i, hd, hi⟩ <;> rw [hi] at h
  · cases h
    exact RecordKept.refl s
  · rw [raiseFault_later _ _ _ _ hrec] at h
    cases h
    exact RecordKept.refl s
  · have hf : s.status.fatal = false :=
      Bool.eq_false_iff.2 fun hf => hv (eq_sreset_value hlt (hhalt hf))
    have hsreset : i ≠ .sreset := by
      rintro rfl
      exact hv (eq_sreset_value hlt (encode_decode hd).1.symm)
    exact exec_recordKept h hsreset (hrec.resolve_right (by simp [hf])) hf

/-- Settles O12: transaction by transaction; on CMD the halted engine ignores, the other keeps its first record. -/
theorem firstFaultStaysRecorded : Obligations.FirstFaultStaysRecorded := by
  intro s t hrec hreset hsreset h
  cases hin : s.inbox with
  | nil =>
    rw [step_idle hin] at h
    cases h
    exact RecordKept.refl s
  | cons m rest =>
    have hm : m ≠ .reset := fun e => hreset (by rw [hin, e, List.head?_cons])
    cases hb : s.status.busy with
    | true =>
      simp only [step, advance, hin, serve, hb, if_true] at h
      cases m with
      | reset => exact absurd rfl hm
      | write | narrow => cases h
      | read o =>
        simp only [serveBusy] at h
        split at h
        · next ho =>
          simp only [serveIdle, ho, Nat.reduceMod, if_true] at h
          cases h
          exact RecordKept.refl s
        · cases h
    | false =>
      rw [step_serveIdle hin hb] at h
      rcases serveIdle_cases m { s with inbox := rest } with e | ⟨v, rfl, e⟩ | ⟨k, v, e⟩ | ⟨v, e⟩ | ⟨rfl, -⟩
      case inr.inr.inr.inr => exact absurd rfl hm
      all_goals rw [e] at h
      case inr.inl =>
        refine issue_recordKept (s := { s with inbox := rest }) h ?_ hrec
        rintro rfl
        exact hsreset (by rw [hin, List.head?_cons])
      all_goals
        cases h
        exact ⟨rfl, rfl, id, id⟩

end Sys2Proof.Machine
end

section
/-! PROOFS. The field is a field: P is prime (R6, R8), by Lucas' criterion with the generator G and the prime factors of
`P - 1 = 2^32 * 3 * 5 * 17 * 257 * 65537`, so `finv` inverts every field element other than 0 (R106). -/

namespace Sys2Proof.Machine

section Prime

/-- The modulus has only the six prime factors below in `P - 1`. -/
theorem prime_dvd_P_sub_one {r : Nat} (hr : r.Prime) (h : r ∣ Config.P - 1) :
    r = 2 ∨ r = 3 ∨ r = 5 ∨ r = 17 ∨ r = 257 ∨ r = 65537 := by
  have hfactors : Config.P - 1 = 2 ^ 32 * (3 * (5 * (17 * (257 * 65537)))) := by decide
  have eq_of_dvd {p : Nat} (hp : p.Prime) (hd : r ∣ p) : r = p := (Nat.prime_dvd_prime_iff_eq hr hp).1 hd
  rw [hfactors, hr.dvd_mul, hr.dvd_mul, hr.dvd_mul, hr.dvd_mul, hr.dvd_mul] at h
  rcases h with h | h | h | h | h | h
  · exact .inl (eq_of_dvd Nat.prime_two (hr.dvd_of_dvd_pow h))
  · exact .inr (.inl (eq_of_dvd Nat.prime_three h))
  · exact .inr (.inr (.inl (eq_of_dvd Nat.prime_five h)))
  · exact .inr (.inr (.inr (.inl (eq_of_dvd (by norm_num) h))))
  · exact .inr (.inr (.inr (.inr (.inl (eq_of_dvd (by norm_num) h)))))
  · exact .inr (.inr (.inr (.inr (.inr (eq_of_dvd (by norm_num) h)))))

/-- The generator's powers that decide its order, evaluated by the squarings of `fpow` (R105). -/
theorem generator_pow_ne_one {r : Nat} (hr : r = 2 ∨ r = 3 ∨ r = 5 ∨ r = 17 ∨ r = 257 ∨ r = 65537) :
    fpow Config.G ((Config.P - 1) / r) ≠ 1 := by
  rcases hr with rfl | rfl | rfl | rfl | rfl | rfl <;> decide +kernel

/-- The modulus is prime (R6, R8). -/
theorem prime_P : Config.P.Prime := by
  have hcast (e : Nat) : (Config.G : ZMod Config.P) ^ e = ((Config.G ^ e % Config.P : Nat) : ZMod Config.P) := by
    rw [ZMod.natCast_mod, Nat.cast_pow]
  refine lucas_primality Config.P (Config.G : ZMod Config.P) ?order fun r hr hd => ?proper
  case order => rw [hcast, pow_order_eq_one generator_pow_half, Nat.cast_one]
  case proper =>
    intro h
    rw [hcast, ← fpow_eq _ _ (order_div_lt r)] at h
    have hmod := (ZMod.natCast_eq_natCast_iff' _ 1 Config.P).1 (h.trans Nat.cast_one.symm)
    rw [Nat.mod_eq_of_lt (fpow_lt _ _)] at hmod
    exact generator_pow_ne_one (prime_dvd_P_sub_one hr hd) hmod

/-- `finv` inverts every operand that is not 0 mod P (R106): Fermat's little theorem. -/
theorem fmul_finv {x : Nat} (hx : ¬Config.P ∣ x) : fmul x (finv x) = 1 := by
  have hcop : x.Coprime Config.P := ((Nat.Prime.coprime_iff_not_dvd prime_P).2 hx).symm
  have hfermat := Nat.ModEq.pow_totient hcop
  rw [Nat.totient_prime prime_P] at hfermat
  rw [fmul_finv_eq_pow]
  exact hfermat

end Prime

/-- FINV of a field element other than 0 writes its inverse (R114). -/
theorem exec_finv_of_ne_zero {s : State} (rd : SReg) {ra : SReg} (ha : (s.readS ra).toNat < Config.P)
    (h0 : s.readS ra ≠ 0#64) : exec (.finv rd ra) s = .next (s.writeS rd (wordOf (finv (s.readS ra).toNat))) := by
  rw [exec, execFinv, needField_pass _ _ _ _ ha, if_neg h0]

/-- Settles O19: by Fermat's little theorem, as P is prime. -/
theorem fieldInverse : Obligations.FieldInverse := by
  intro s rd ra ha h0
  have hpos : 0 < (s.readS ra).toNat := Nat.pos_of_ne_zero fun h => h0 (BitVec.eq_of_toNat_eq h)
  have hdvd : ¬Config.P ∣ (s.readS ra).toNat := Nat.not_dvd_of_pos_of_lt hpos ha
  refine ⟨_, _, exec_finv_of_ne_zero rd ha h0, onlyScalar_writeS _ _ _, ?canonical, ?inverse⟩
  all_goals rw [toNat_wordOf_of_lt (finv_lt _)]
  case canonical => exact finv_lt _
  case inverse =>
    rw [Nat.mul_comm]
    exact fmul_finv hdvd

end Sys2Proof.Machine
end

section
/-! PROOFS. The table builder (43_table_builder_init.md section 1): the root of two, the balanced split of the exponent,
and the checks of the builder. -/

namespace Sys2Proof.Machine

section RootOfTwo

/-- The exponent of the root of two for the length 1 (R152). -/
def rootTwoExponent : Nat := Config.ROOT2_MUL * (Config.P - 1) / Config.ROOT2_DIV

/-- The root of two as a power of the generator (R152). -/
theorem rootTwo_eq_fpow (n : Nat) : rootTwo n = fpow Config.G (rootTwoExponent / n) := by
  rw [rootTwo, ← Nat.div_div_eq_div_mul, rootTwoExponent]

/-- The exponent of the root of two fits the 64 bits of `fpow` (R105). -/
theorem rootTwoExponent_div_lt (n : Nat) : rootTwoExponent / n < 2 ^ 64 :=
  (Nat.div_le_self _ _).trans_lt (by decide)

/-- The generator's power of the undivided exponent is 2, evaluated by the squarings of `fpow` (R153). -/
theorem generator_pow_rootTwoExponent : Config.G ^ rootTwoExponent % Config.P = 2 := by
  rw [← fpow_eq _ _ (by decide)]
  decide +kernel

theorem rootTwo_lt (n : Nat) : rootTwo n < Config.P := fpow_lt _ _

/-- `root2^n = 2` for every supported length (R153). -/
theorem fpow_rootTwo {l : Nat} (hl : l ≤ 26) : fpow (rootTwo (2 ^ l)) (2 ^ l) = 2 := by
  have hdvd : 2 ^ l ∣ rootTwoExponent := (Nat.pow_dvd_pow 2 hl).trans (by decide)
  have hfit : 2 ^ l < 2 ^ 64 := Nat.pow_lt_pow_right (by decide) (by omega)
  rw [rootTwo_eq_fpow, fpow_fpow _ (rootTwoExponent_div_lt _) hfit, Nat.div_mul_cancel hdvd]
  exact generator_pow_rootTwoExponent

end RootOfTwo

/-- Settles O34: by the laws of powers for every length, and by evaluation of the values the rule lists. -/
theorem rootOfTwoCheckPasses : Obligations.RootOfTwoCheckPasses := by
  refine ⟨fun l hl => fpow_rootTwo hl, ?values⟩
  case values => decide +kernel

section Split
variable {q n : Nat}

/-- `addr(i)` is the least k with `q i ≤ n k`: the rounding up of `q i / n` (R154). -/
theorem limbAddr_bounds (hn : 0 < n) (i : Nat) : q * i ≤ n * limbAddr q n i ∧ n * limbAddr q n i < q * i + n := by
  have hdiv := Nat.div_add_mod (q * i) n
  have hmod := Nat.mod_lt (q * i) hn
  unfold limbAddr
  split
  · rw [Nat.mul_add]
    omega
  · rw [Nat.mul_add]
    omega

/-- The two bounds determine the address. -/
theorem limbAddr_unique (hn : 0 < n) {i k : Nat} (h : q * i ≤ n * k) (h' : n * k < q * i + n) : limbAddr q n i = k := by
  obtain ⟨hlo, hhi⟩ := limbAddr_bounds (q := q) hn i
  have h1 : limbAddr q n i < k + 1 := Nat.lt_of_mul_lt_mul_left (a := n) (by rw [Nat.mul_add]; omega)
  have h2 : k < limbAddr q n i + 1 := Nat.lt_of_mul_lt_mul_left (a := n) (by rw [Nat.mul_add]; omega)
  omega

/-- The address as a rounded-up quotient (R154). -/
theorem limbAddr_eq_ceil (hn : 0 < n) (i : Nat) : limbAddr q n i = (q * i + n - 1) / n := by
  have hdiv := Nat.div_add_mod (q * i + n - 1) n
  have hmod := Nat.mod_lt (q * i + n - 1) hn
  exact limbAddr_unique hn (by omega) (by omega)

theorem limbAddr_zero (hn : 0 < n) : limbAddr q n 0 = 0 := limbAddr_unique hn (by simp) (by simpa using hn)

/-- The address after the last limb is the exponent (R154). -/
theorem limbAddr_length (hn : 0 < n) : limbAddr q n n = q :=
  limbAddr_unique hn (by rw [Nat.mul_comm]) (by rw [Nat.mul_comm]; omega)

/-- Each address is `⌊q/n⌋` or `⌊q/n⌋ + 1` above the one before (R156). -/
theorem limbAddr_succ (hn : 0 < n) (i : Nat) :
    limbAddr q n (i + 1) = limbAddr q n i + q / n ∨ limbAddr q n (i + 1) = limbAddr q n i + (q / n + 1) := by
  obtain ⟨hlo, hhi⟩ := limbAddr_bounds (q := q) hn i
  have hdiv := Nat.div_add_mod q n
  have hmod := Nat.mod_lt q hn
  have hsucc : q * (i + 1) = q * i + q := Nat.mul_succ q i
  by_cases h : q * i + q ≤ n * limbAddr q n i + n * (q / n)
  · refine .inl (limbAddr_unique hn ?_ ?_) <;> rw [hsucc, Nat.mul_add] <;> omega
  · refine .inr (limbAddr_unique hn ?_ ?_) <;> rw [hsucc, Nat.mul_add, Nat.mul_add] <;> omega

theorem limbAddr_le_succ (hn : 0 < n) (i : Nat) : limbAddr q n i ≤ limbAddr q n (i + 1) := by
  rcases limbAddr_succ (q := q) hn i with h | h <;> exact h ▸ Nat.le_add_right _ _

/-- A limb is `⌊q/n⌋` or `⌊q/n⌋ + 1` bits wide (R156). -/
theorem limbWidth_eq (hn : 0 < n) (i : Nat) : limbWidth q n i = q / n ∨ limbWidth q n i = q / n + 1 := by
  unfold limbWidth
  rcases limbAddr_succ (q := q) hn i with h | h <;> rw [h, Nat.add_sub_cancel_left]
  · exact .inl rfl
  · exact .inr rfl

/-- The widths of the first k limbs sum to the address of limb k (R154). -/
theorem limbWidth_sum (hn : 0 < n) (k : Nat) : ((List.range k).map (limbWidth q n)).sum = limbAddr q n k := by
  induction k with
  | zero => simp [limbAddr_zero hn]
  | succ k ih =>
    have := limbAddr_le_succ (q := q) hn k
    rw [List.range_succ, List.map_append, List.sum_append, ih, List.map_singleton, List.sum_singleton, limbWidth]
    omega

end Split

/-- A sum of numbers that are each w or w + 1 counts the larger ones. -/
theorem sum_map_eq_count {α : Type} (l : List α) (f : α → Nat) (w : Nat) (h : ∀ a ∈ l, f a = w ∨ f a = w + 1) :
    (l.map f).sum = l.length * w + (l.filter (fun a => f a = w + 1)).length := by
  induction l with
  | nil => simp
  | cons a l ih =>
    obtain ⟨ha, hl⟩ := List.forall_mem_cons.1 h
    rw [List.map_cons, List.sum_cons, ih hl, List.length_cons, Nat.succ_mul, List.filter_cons]
    rcases ha with ha | ha
    · simp only [ha, Nat.left_eq_add, Nat.succ_ne_zero, decide_false, Bool.false_eq_true, if_false]
      omega
    · simp only [ha, decide_true, if_true, List.length_cons]
      omega

/-- Settles O36: the widths sum to q by telescoping, and the remainder counts the large limbs. -/
theorem digitWidthsSplitExponent : Obligations.DigitWidthsSplitExponent := by
  intro n q hn
  have hsum : ((List.range n).map (limbWidth q n)).sum = q := by rw [limbWidth_sum hn, limbAddr_length hn]
  refine ⟨limbAddr_eq_ceil hn, fun i _ => limbWidth_eq hn i, hsum, ?large⟩
  case large =>
    have hcount := sum_map_eq_count (List.range n) (limbWidth q n) (q / n) fun i _ => limbWidth_eq hn i
    have hdiv := Nat.div_add_mod q n
    rw [hsum, List.length_range] at hcount
    omega

section Guard
variable {l q : Nat}

/-- A pair the guard accepts has limbs of at most 30 bits and an exponent below 2^31 (R10, R151). -/
theorem guard_bounds (hl : l ≤ 26) (hg : 2 * (q / 2 ^ l) + l ≤ 60) : q / 2 ^ l ≤ 30 ∧ q < 2 ^ 31 := by
  have hw : q / 2 ^ l ≤ 30 := by omega
  refine ⟨hw, ?_⟩
  calc q < 2 ^ l * (q / 2 ^ l + 1) := Nat.lt_mul_div_succ q (Nat.two_pow_pos l)
    _ ≤ 2 ^ 26 * 31 := Nat.mul_le_mul (Nat.pow_le_pow_right (by decide) hl) (by omega)
    _ < 2 ^ 31 := by decide

/-- The guard as a number comparison (R151). -/
theorem guardRejects_false_iff : guardRejects l q = false ↔ 2 * (q / 2 ^ l) + l ≤ 60 := by
  rw [Bool.eq_false_iff, Ne, guardRejects_iff]
  omega

/-- The intermediates of an address fit in 32 bits (R155). -/
theorem addrFits_of_guard (hl : l ≤ 26) (hg : 2 * (q / 2 ^ l) + l ≤ 60) {i : Nat} (hi : i ≤ 2 ^ l) :
    addrFits q (2 ^ l) i = true := by
  have hn := Nat.two_pow_pos l
  have hn26 : 2 ^ l ≤ 2 ^ 26 := Nat.pow_le_pow_right (by decide) hl
  obtain ⟨-, hq⟩ := guard_bounds hl hg
  have hqi : q * i ≤ 2 ^ l * q := Nat.mul_comm q i ▸ Nat.mul_le_mul_right q hi
  have hquot : q * i / 2 ^ l ≤ q := Nat.div_le_of_le_mul hqi
  have hrem := Nat.mod_lt (q * i) hn
  have haddr : limbAddr q (2 ^ l) i < q + 1 :=
    Nat.lt_of_mul_lt_mul_left (a := 2 ^ l) (by have := (limbAddr_bounds (q := q) hn i).2; rw [Nat.mul_add]; omega)
  have h32 : 2 ^ Config.ADDR_BITS = 2 ^ 32 := rfl
  rw [addrFits, Bool.and_eq_true, Bool.and_eq_true, h32]
  exact ⟨⟨decide_eq_true (by omega), decide_eq_true (by omega)⟩, decide_eq_true (by omega)⟩

/-- Every check of the builder passes for a pair the guard accepts (R155, R156). -/
theorem builderChecks_of_guard (hl : l ≤ 26) (hg : 2 * (q / 2 ^ l) + l ≤ 60) :
    builderChecks q (2 ^ l) (q / 2 ^ l) = true := by
  rw [builderChecks, Bool.and_eq_true, List.all_eq_true, List.all_eq_true]
  constructor
  · intro i hi
    exact addrFits_of_guard hl hg (Nat.lt_succ_iff.1 (List.mem_range.1 hi))
  · intro i _
    rw [widthOk, Bool.or_eq_true, decide_eq_true_eq, decide_eq_true_eq]
    exact limbAddr_succ (Nat.two_pow_pos l) i

end Guard

/-- Settles O35: the guard bounds the limb width, and with it every intermediate. -/
theorem builderChecksNeverFail : Obligations.BuilderChecksNeverFail := fun _ _ hl hg => builderChecks_of_guard hl hg

end Sys2Proof.Machine
end

section
/-! PROOFS. INIT and AUTOINIT (43_table_builder_init.md sections 2 and 3): an attempt at a size ends in one of two ways, the
guard's failure or success, because no check after the guard fails; a success leaves the tables of R47. -/

namespace Sys2Proof.Machine

/-- What a successful INIT_PROC leaves (R160). -/
def initialised (l q : Nat) (s : State) : State :=
  initDone l q (rootTwo (2 ^ l)) { initStart l q s with root2 := wordOf (rootTwo (2 ^ l)) }

section Attempts
variable {l q : Nat} (cmdw : Command) (s : State)

/-- An attempt at a size that the guard accepts succeeds (R151 to R156). -/
theorem initProc_of_guard (hl : l ≤ 26) (hg : 2 * (q / 2 ^ l) + l ≤ 60) :
    initProc cmdw l q s = (.success, initialised l q s) := by
  have hguard := guardRejects_false_iff.2 hg
  rcases initProc_cases cmdw l q s with ⟨h, -⟩ | ⟨-, h, -⟩ | ⟨-, -, -, h⟩ | ⟨-, -, h, -⟩
  · exact absurd (hguard.symm.trans h) (by decide)
  · exact absurd (fpow_rootTwo hl) h
  · exact h
  · exact absurd ((builderChecks_of_guard hl hg).symm.trans h) (by decide)

/-- An attempt at a size that the guard rejects is the retryable failure (R151, R161). -/
theorem initProc_of_rejected (hg : 61 ≤ 2 * (q / 2 ^ l) + l) :
    initProc cmdw l q s = (.failed, (initStart l q s).setFail true) := by
  have hguard := (guardRejects_iff l q).2 hg
  rcases initProc_cases cmdw l q s with ⟨-, h⟩ | ⟨h, -⟩ | ⟨h, -⟩ | ⟨h, -⟩
  · exact h
  all_goals exact absurd (hguard.symm.trans h) (by decide)

/-- A failed attempt leaves nothing that the next attempt does not overwrite (R161, R165). -/
theorem initProc_after_failure (l' : Nat) :
    initProc cmdw l q ((initStart l' q s).setFail true) = initProc cmdw l q s := by
  have hstart : initStart l q ((initStart l' q s).setFail true) = initStart l q s := rfl
  rw [initProc, hstart, initProc]

/-- AUTOINIT passes over the sizes the guard rejects as if they had not been tried (R165). -/
theorem autoInit_skips_rejected {rejected : List Nat} (rest : List Nat)
    (h : ∀ m ∈ rejected, 61 ≤ 2 * (q / 2 ^ m) + m) :
    autoInit cmdw q (rejected ++ l :: rest) s = autoInit cmdw q (l :: rest) s := by
  induction rejected generalizing s with
  | nil => rfl
  | cons m rejected ih =>
    obtain ⟨hm, hrej⟩ := List.forall_mem_cons.1 h
    have hfail := initProc_of_rejected cmdw s hm
    rw [List.cons_append, autoInit_failed _ (by rw [hfail]), hfail, ih _ hrej]
    simp only [autoInit, initProc_after_failure]

/-- AUTOINIT ends with the first size the guard accepts (R165). -/
theorem autoInit_of_first {rejected : List Nat} (rest : List Nat)
    (h : ∀ m ∈ rejected, 61 ≤ 2 * (q / 2 ^ m) + m) (hl : l ≤ 26) (hg : 2 * (q / 2 ^ l) + l ≤ 60) :
    autoInit cmdw q (rejected ++ l :: rest) s = initialised l q s := by
  have hok := initProc_of_guard cmdw s hl hg
  rw [autoInit_skips_rejected cmdw s rest h, autoInit_ends _ (by rw [hok]; rintro ⟨⟩), hok]

/-- AUTOINIT halts the engine when the guard rejects every size (R165, R245). -/
theorem autoInit_of_exhausted {rejected : List Nat} (h : ∀ m ∈ rejected, 61 ≤ 2 * (q / 2 ^ m) + m)
    (hl : 61 ≤ 2 * (q / 2 ^ l) + l) :
    autoInit cmdw q (rejected ++ [l]) s =
      fatalHalt .fatalExhausted cmdw (wordOf q) ((initStart l q s).setFail true) := by
  have hfail := initProc_of_rejected cmdw s hl
  rw [autoInit_skips_rejected cmdw s [] h, autoInit_failed _ (by rw [hfail]), hfail, autoInit]

end Attempts

section Initialised
variable {l q : Nat} (s : State)

theorem toNat_logn (hl : l ≤ 26) : (BitVec.ofNat 5 l).toNat = l := by
  rw [BitVec.toNat_ofNat, Nat.mod_eq_of_lt (by omega)]

/-- The word of a register's number is the register. -/
theorem wordOf_toNat (v : Word) : wordOf v.toNat = v := by
  rw [wordOf, BitVec.ofNat_toNat, BitVec.setWidth_eq]

theorem initialised_n (hl : l ≤ 26) : (initialised l q s).n = 2 ^ l := congrArg (2 ^ ·) (toNat_logn hl)

/-- The cells of X after a successful INIT are field elements (R49, U2). -/
theorem unwrittenX_canonical (k n : Nat) : canonicalCells (unwrittenX k n) = true :=
  canonicalCells_map _ _ fun _ _ => Nat.mod_lt _ P_pos

/-- A success establishes the tables of (Q, LOGN) (R47). -/
theorem engineTables_initialised (hl : l ≤ 26) (hq : 2 ≤ q) (hg : 2 * (q / 2 ^ l) + l ≤ 60) :
    EngineTables (initialised l q s) := by
  have hn := initialised_n (q := q) s hl
  have hlogn : (initialised l q s).logn.toNat = l := toNat_logn hl
  have hqv : (initialised l q s).q.toNat = q := by
    have := (guard_bounds hl hg).2
    exact (toNat_wordOf q).trans (Nat.mod_eq_of_lt (by omega))
  constructor
  case logn_le => exact hlogn.le.trans hl
  case two_le_q => exact hq.trans hqv.ge
  case guard_passes => rw [hlogn, hqv, guardRejects_false_iff]; exact hg
  case width_eq => rw [hqv, hn]; rfl
  case root2_eq => rw [hn]; rfl
  case strat_eq => rw [hlogn]; rfl
  case w_eq => rw [hqv, hn]; rfl
  case u_eq => rw [hqv, hn]; rfl
  case dw_eq => rw [hqv, hn]; rfl
  case x_length => rw [hn]; exact unwrittenX_length _ _
  case x_canonical => exact unwrittenX_canonical _ _

/-- The exponents AUTOINIT serves: the largest size accepts every exponent up to 1207959551 (R10). -/
theorem guard_accepts_largest {q : Nat} (h : q ≤ 1207959551) : 2 * (q / 2 ^ 26) + 26 ≤ 60 := by omega

/-- No size accepts a larger exponent (R10). -/
theorem guard_rejects_all {q : Nat} (h : 1207959552 ≤ q) {m : Nat} (hm : m ≤ 26) : 61 ≤ 2 * (q / 2 ^ m) + m := by
  interval_cases m <;> omega

end Initialised

section Tables
variable {q n i : Nat}

theorem getD_map_range {α : Type} (f : Nat → α) (d : α) (hi : i < n) : ((List.range n).map f).getD i d = f i := by
  rw [List.getD_eq_getElem _ _ (by simpa using hi)]
  simp

theorem cell_map_range (f : Nat → Word) (hi : i < n) : cell ((List.range n).map f) i = f i := getD_map_range f _ hi

/-- A digit width in the table is the width of its limb, when the limbs are at most 31 bits wide (R156). -/
theorem digit_digitTable (hw : q / n ≤ 30) (hi : i < n) : digit (digitTable q n) i = limbWidth q n i := by
  rw [digit, digitTable, getD_map_range _ _ hi, BitVec.toNat_ofNat]
  rcases limbWidth_eq (q := q) (Nat.zero_lt_of_lt hi) i with h | h <;> rw [h]
    <;> exact Nat.mod_eq_of_lt (by simp only [Config.DWBITS]; omega)

theorem weightAt_lt (root2 q n i : Nat) : weightAt root2 q n i < Config.P := by
  unfold weightAt
  split
  · decide
  · exact fpow_lt _ _

/-- Every unweight is the inverse of its weight times n, also at limb 0 (R157). -/
theorem unweightAt_eq (root2 q i : Nat) (hn : n < Config.P) :
    unweightAt root2 q n i = finv (fmul (weightAt root2 q n i) n) := by
  unfold unweightAt
  split
  · next h0 => rw [weightAt, if_pos h0, fmul, Nat.one_mul, Nat.mod_eq_of_lt hn]
  · rfl

theorem weightTable_cell (root2 : Nat) (hi : i < n) :
    (cell (weightTable root2 q n) i).toNat = weightAt root2 q n i := by
  rw [weightTable, cell_map_range _ hi, toNat_wordOf_of_lt (weightAt_lt _ _ _ _)]

theorem unweightTable_cell (root2 : Nat) (hn : n < Config.P) (hi : i < n) :
    (cell (unweightTable root2 q n) i).toNat = finv (fmul (weightAt root2 q n i) n) := by
  rw [unweightTable, cell_map_range _ hi, unweightAt_eq _ _ _ hn, toNat_wordOf_of_lt (finv_lt _)]

/-- Every supported length is a field element other than 0 (R6, R10). -/
theorem length_lt_P {l : Nat} (hl : l ≤ 26) : 2 ^ l < Config.P :=
  (Nat.pow_le_pow_right (by decide) hl).trans_lt (by decide)

end Tables

/-- INIT of a pair in range is INIT_PROC (R160). -/
theorem exec_init_of_range {s : State} {ra rb : SReg} (hl : (s.readS ra).toNat ≤ 26) (hq : 2 ≤ (s.readS rb).toNat) :
    exec (.init ra rb) s =
      .next (initProc (encode (.init ra rb)) (s.readS ra).toNat (s.readS rb).toNat s).2 :=
  (needArg_decide_pass hl).trans (needArg_decide_pass hq)

/-- AUTOINIT of an exponent in range is its retry loop (R165). -/
theorem exec_autoinit_of_range {s : State} {ra : SReg} (hq : 2 ≤ (s.readS ra).toNat) :
    exec (.autoinit ra) s =
      .next (autoInit (encode (.autoinit ra)) (s.readS ra).toNat (List.range 27) s) :=
  needArg_decide_pass hq

/-- Settles O37: the guard accepts, so INIT_PROC succeeds, and the registers and tables are read off its last writes. -/
theorem initSucceeds : Obligations.InitSucceeds := by
  intro s ra rb l q n hra hrb hn hl hq hg
  subst hn
  refine ⟨initialised l q s, ?completes, rfl, ?q, toNat_logn hl, rfl, ?root2, rfl, rfl, rfl, rfl, rfl, rfl, rfl, rfl,
    unwrittenX_length _ _, unwrittenX_canonical _ _, weightTable_length _ _ _, unweightTable_length _ _ _,
    digitTable_length _ _, fun i hi => ⟨?digit, ?weight, ?unweight⟩⟩
  case completes =>
    rw [exec_init_of_range (hra.le.trans hl) (hq.trans hrb.ge), hra, hrb, initProc_of_guard _ s hl hg]
  case q => exact (congrArg wordOf hrb.symm).trans (wordOf_toNat _)
  case root2 =>
    have hfit : 5 * (Config.P - 1) / (192 * 2 ^ l) < 2 ^ 64 := by
      rw [← Nat.div_div_eq_div_mul]
      exact rootTwoExponent_div_lt _
    exact congrArg wordOf (fpow_eq _ _ hfit)
  case digit =>
    have hpos := Nat.two_pow_pos l
    rw [← limbAddr_eq_ceil hpos, ← limbAddr_eq_ceil hpos]
    exact digit_digitTable (guard_bounds hl hg).1 hi
  case weight =>
    have hroot : (initialised l q s).root2.toNat = rootTwo (2 ^ l) := toNat_wordOf_of_lt (rootTwo_lt _)
    have hfit : 2 ^ l - q * i % 2 ^ l < 2 ^ 64 :=
      (Nat.sub_le _ _).trans_lt (Nat.pow_lt_pow_right (by decide) (by omega))
    rw [hroot, ← fpow_eq _ _ hfit]
    exact weightTable_cell _ hi
  case unweight =>
    rw [← finv_eq]
    refine (unweightTable_cell _ (length_lt_P hl) hi).trans ?_
    rw [← weightTable_cell (q := q) _ hi]
    rfl

/-- Settles O38: the guard rejects, so INIT_PROC stops after its first writes. -/
theorem initGuardFailure : Obligations.InitGuardFailure := by
  intro s ra rb hl hq hg
  rw [exec_init_of_range hl hq, initProc_of_rejected _ s hg, initStart, wordOf_toNat]
  rfl

/-- AUTOINIT of an exponent in the range of R10 ends at the smallest size the guard accepts (R165, R166): there is one,
because the largest size is accepted, and the sizes below it are passed over. -/
theorem autoInit_of_le {q : Nat} (hmax : q ≤ 1207959551) :
    ∃ l, l ≤ 26 ∧ 2 * (q / 2 ^ l) + l ≤ 60 ∧ (∀ m, m < l → 61 ≤ 2 * (q / 2 ^ m) + m) ∧
      ∀ cmdw s, autoInit cmdw q (List.range 27) s = initialised l q s := by
  have hex : ∃ l, 2 * (q / 2 ^ l) + l ≤ 60 := ⟨26, guard_accepts_largest hmax⟩
  have hg := Nat.find_spec hex
  have hl : Nat.find hex ≤ 26 := Nat.find_min' hex (guard_accepts_largest hmax)
  have hrej (m : Nat) (hm : m < Nat.find hex) : 61 ≤ 2 * (q / 2 ^ m) + m := by
    have := Nat.find_min hex hm
    omega
  generalize Nat.find hex = l at hg hl hrej
  have hsizes : List.range 27 = List.range l ++ l :: (List.range (26 - l)).map (l + 1 + ·) := by
    rw [← List.singleton_append, ← List.append_assoc, ← List.range_succ, ← List.range_add]
    congr 1
    omega
  refine ⟨l, hl, hg, hrej, fun cmdw s => ?_⟩
  rw [hsizes]
  exact autoInit_of_first cmdw s _ (fun m hm => hrej m (List.mem_range.1 hm)) hl hg

/-- AUTOINIT of a larger exponent halts the engine after its attempt at the largest size (R10, R165, R245). -/
theorem autoInit_of_gt {q : Nat} (h : 1207959552 ≤ q) (cmdw : Command) (s : State) :
    autoInit cmdw q (List.range 27) s =
      fatalHalt .fatalExhausted cmdw (wordOf q) ((initStart 26 q s).setFail true) := by
  rw [List.range_succ]
  exact autoInit_of_exhausted cmdw s (fun m hm => guard_rejects_all h (List.mem_range.1 hm).le)
    (guard_rejects_all h le_rfl)

/-- Settles O39: AUTOINIT passes over the rejected sizes and ends as INIT does at the first accepted one. -/
theorem autoinitChoosesSmallestSize : Obligations.AutoinitChoosesSmallestSize := by
  intro s ra hq hmax
  obtain ⟨l, hl, hg, hrej, hauto⟩ := autoInit_of_le hmax
  refine ⟨initialised l (s.readS ra).toNat s, l, ?completes, hl, hg, hrej, rfl, toNat_logn hl, wordOf_toNat _,
    engineTables_initialised s hl hq hg, rfl, rfl, rfl, rfl, rfl, rfl, rfl⟩
  case completes => rw [exec_autoinit_of_range hq, hauto]

/-- The record of AUTOINIT's exhaustion: its word and its code (R242, R245). -/
theorem faultWord_exhausted (ra : SReg) :
    faultWord .fatalExhausted (encode (.autoinit ra)) = wordOf ((0x41000000 + ra.val * 2 ^ 16) * 2 ^ 32 + 0x81) := by
  have hword : (encode (.autoinit ra)).toNat = 0x41000000 + ra.val * 2 ^ 16 :=
    (packWord_toNat 0x41#8 0 ra 0 0).trans (by simp)
  rw [faultWord_eq, hword]
  rfl

/-- Settles O40: every size is rejected, and the fatal halt follows the last attempt. -/
theorem autoinitExhaustionIsFatal : Obligations.AutoinitExhaustionIsFatal := by
  intro s ra hq
  rw [exec_autoinit_of_range (by omega), autoInit_of_gt hq, fatalHalt_eq, initStart, wordOf_toNat, faultWord_exhausted]
  rfl

section EngineFacts
variable {s : State}

/-- The guard that an initialised engine passed, as numbers (R47, R151). -/
theorem EngineTables.guard (h : EngineTables s) : 2 * (s.q.toNat / s.n) + s.logn.toNat ≤ 60 :=
  guardRejects_false_iff.1 h.guard_passes

/-- The limbs of an initialised engine are at most 31 bits wide (R43, R151). -/
theorem EngineTables.width_le (h : EngineTables s) : s.q.toNat / s.n ≤ 30 := (guard_bounds h.logn_le h.guard).1

theorem EngineTables.n_lt_P (h : EngineTables s) : s.n < Config.P := length_lt_P h.logn_le

theorem EngineTables.digit_eq (h : EngineTables s) {i : Nat} (hi : i < s.n) :
    digit s.mem.dw i = limbWidth s.q.toNat s.n i := by
  rw [h.dw_eq, digit_digitTable h.width_le hi]

theorem EngineTables.w_cell (h : EngineTables s) {i : Nat} (hi : i < s.n) :
    (cell s.mem.w i).toNat = weightAt (rootTwo s.n) s.q.toNat s.n i := by
  rw [h.w_eq, weightTable_cell _ hi]

theorem EngineTables.u_cell (h : EngineTables s) {i : Nat} (hi : i < s.n) :
    (cell s.mem.u i).toNat = finv (fmul (weightAt (rootTwo s.n) s.q.toNat s.n i) s.n) := by
  rw [h.u_eq, unweightTable_cell _ h.n_lt_P hi]

/-- ROOT2 holds the root of two (R34, R152). -/
theorem EngineTables.root2_toNat (h : EngineTables s) : s.root2.toNat = rootTwo s.n := by
  rw [h.root2_eq, toNat_wordOf_of_lt (rootTwo_lt _)]

/-- The digit widths of an initialised engine sum to the exponent (R156). -/
theorem EngineTables.sum_dw (h : EngineTables s) : (s.mem.dw.map BitVec.toNat).sum = s.q.toNat := by
  have hmap : s.mem.dw.map BitVec.toNat = (List.range s.n).map (limbWidth s.q.toNat s.n) := by
    apply List.ext_getElem
    · simp [h.dw_eq]
    · intro i h1 h2
      have hi : i < s.n := by simpa using h2
      have hlen : i < s.mem.dw.length := by simpa using h1
      rw [List.getElem_map, List.getElem_map, List.getElem_range, ← h.digit_eq hi, digit, List.getD_eq_getElem _ _ hlen]
  rw [hmap, limbWidth_sum s.n_pos, limbAddr_length s.n_pos]

/-- No weight is 0 mod P: it is a power of the root of two, of which a power is 2 (R157). -/
theorem weightAt_not_dvd {l : Nat} (hl : l ≤ 26) (q i : Nat) : ¬Config.P ∣ weightAt (rootTwo (2 ^ l)) q (2 ^ l) i := by
  have hroot : ¬Config.P ∣ rootTwo (2 ^ l) := by
    intro hd
    have htwo := fpow_rootTwo hl
    rw [fpow_eq _ _ (Nat.pow_lt_pow_right (by decide) (by omega)),
      Nat.mod_eq_zero_of_dvd (hd.trans (dvd_pow_self _ (Nat.two_pow_pos l).ne'))] at htwo
    exact absurd htwo (by decide)
  unfold weightAt
  split
  · decide
  · have hfit : 2 ^ l - q * i % 2 ^ l < 2 ^ 64 :=
      (Nat.sub_le _ _).trans_lt (Nat.pow_lt_pow_right (by decide) (by omega))
    rw [fpow_eq _ _ hfit, Nat.dvd_mod_iff (dvd_refl _)]
    exact fun hd => hroot (prime_P.dvd_of_dvd_pow hd)

/-- The factors of a product in the field commute (R102). -/
theorem fmul_right_comm (a b c : Nat) : fmul (fmul a b) c = fmul (fmul a c) b := by
  rw [fmul, fmul, fmul, fmul, Nat.mod_mul_mod, Nat.mod_mul_mod, Nat.mul_right_comm]

/-- Weight, unweight and n multiply to 1 (R47, R157). -/
theorem fmul_weight_unweight (h : EngineTables s) {i : Nat} (hi : i < s.n) :
    fmul (fmul (cell s.mem.w i).toNat (cell s.mem.u i).toNat) s.n = 1 := by
  set w := weightAt (rootTwo s.n) s.q.toNat s.n i with hw
  have hdvd : ¬Config.P ∣ fmul w s.n := by
    rw [fmul, Nat.dvd_mod_iff (dvd_refl _), prime_P.dvd_mul]
    exact not_or_intro (weightAt_not_dvd h.logn_le _ _) (Nat.not_dvd_of_pos_of_lt s.n_pos h.n_lt_P)
  calc fmul (fmul (cell s.mem.w i).toNat (cell s.mem.u i).toNat) s.n
      = fmul (fmul w (finv (fmul w s.n))) s.n := by rw [h.w_cell hi, h.u_cell hi]
    _ = fmul (fmul w s.n) (finv (fmul w s.n)) := fmul_right_comm _ _ _
    _ = 1 := fmul_finv hdvd

/-- A strategy is selected for every size (R135). -/
theorem selectStrategy_ne_none (l : Nat) : selectStrategy l ≠ .none := by
  unfold selectStrategy
  split
  · decide
  · split <;> decide

end EngineFacts

/-- Settles O41: fact by fact, from the formulas of the tables. -/
theorem initialisedEngineTables : Obligations.InitialisedEngineTables := by
  intro s h
  have hwidth : s.width.toNat = s.q.toNat / s.n := by
    have := h.width_le
    rw [h.width_eq, toNat_wordOf, Nat.mod_eq_of_lt (by omega)]
  refine ⟨h.two_le_q, h.logn_le, ?guard, fun i hi => ⟨h.digit_eq hi, ?width⟩, h.sum_dw, ?root, ?weightZero, ?unweightZero,
    fun i h1 hi => ⟨?weight, ?unweight⟩, fun i hi => fmul_weight_unweight h hi, ?strat⟩
  case guard => rw [hwidth]; exact h.guard
  case width => rw [hwidth, h.digit_eq hi]; exact limbWidth_eq s.n_pos i
  case root => rw [h.root2_toNat]; exact fpow_rootTwo h.logn_le
  case weightZero => exact BitVec.eq_of_toNat_eq (h.w_cell s.n_pos)
  case unweightZero =>
    rw [h.u_cell s.n_pos, weightAt, if_pos rfl, fmul, Nat.one_mul, Nat.mod_eq_of_lt h.n_lt_P]
  case weight => rw [h.w_cell hi, h.root2_toNat, weightAt, if_neg (by omega)]
  case unweight => rw [h.u_cell hi, h.w_cell hi]
  case strat => rw [h.strat_eq]; exact selectStrategy_ne_none _

end Sys2Proof.Machine
end

section
/-! PROOFS. The transform as sums in the field (42_transform.md, 41_vector_ops.md): `ZMod P` is where the sums are added and
reordered, and a field element is determined by its image there. -/

namespace Sys2Proof.Machine

/-- The field of the spec (R8, R19). -/
abbrev Fp := ZMod Config.P

section Images

/-- The image of a word in the field. -/
def image (v : Word) : Fp := (v.toNat : Fp)

/-- A number below P is the residue of every number with the same image. -/
theorem eq_mod_of_cast_eq {a b : Nat} (ha : a < Config.P) (h : (a : Fp) = (b : Fp)) : a = b % Config.P := by
  rw [← Nat.mod_eq_of_lt ha]
  exact (ZMod.natCast_eq_natCast_iff' _ _ _).1 h

/-- A field element is determined by its image: it is the word of any number with that image, reduced (R19). -/
theorem eq_wordOf_of_image_eq {v : Word} {b : Nat} (hv : v.toNat < Config.P) (h : image v = (b : Fp)) :
    v = wordOf (b % Config.P) := by
  rw [← wordOf_toNat v, eq_mod_of_cast_eq hv h]

theorem eq_of_image_eq {u v : Word} (hu : u.toNat < Config.P) (hv : v.toNat < Config.P) (h : image u = image v) :
    u = v := by
  rw [eq_wordOf_of_image_eq hu h, Nat.mod_eq_of_lt hv, wordOf_toNat]

/-- A remainder mod P has the image of the number. -/
theorem cast_mod (a : Nat) : ((a % Config.P : Nat) : Fp) = (a : Fp) := ZMod.natCast_mod a Config.P

theorem image_wordOf {a : Nat} (h : a < Config.P) : image (wordOf a) = (a : Fp) := by
  rw [image, toNat_wordOf_of_lt h]

theorem cast_fadd (a b : Nat) : (fadd a b : Fp) = a + b := by rw [fadd, cast_mod, Nat.cast_add]

theorem cast_fmul (a b : Nat) : (fmul a b : Fp) = a * b := by rw [fmul, cast_mod, Nat.cast_mul]

theorem cast_fpow (x : Nat) {e : Nat} (he : e < 2 ^ 64) : (fpow x e : Fp) = (x : Fp) ^ e := by
  rw [fpow_eq x e he, cast_mod, Nat.cast_pow]

theorem image_fmul (a b : Word) : image (wordOf (fmul a.toNat b.toNat)) = image a * image b := by
  rw [image_wordOf (fmul_lt _ _), cast_fmul, image, image]

end Images

section Sums

/-- Horner's rule computes the sum of powers (R131). -/
theorem cast_powerSum (y : Nat) (v : List Word) :
    (powerSum y v : Fp) = (Finset.range v.length).sum fun j => image (cell v j) * (y : Fp) ^ j := by
  induction v with
  | nil => simp [powerSum]
  | cons a v ih =>
    have hcell (j : Nat) : cell (a :: v) (j + 1) = cell v j := rfl
    rw [powerSum, cast_fadd, cast_fmul, ih, List.length_cons, Finset.sum_range_succ', Finset.mul_sum, add_comm]
    congr 1
    · refine Finset.sum_congr rfl fun j _ => ?_
      rw [hcell, pow_succ']
      ring
    · simp [cell, image]

/-- One output cell of a transform, in the field (R131). -/
theorem image_transform (ω : Nat) (v : List Word) {k : Nat} (hk : k < v.length) (h64 : v.length ≤ 2 ^ 64) :
    image (cell (transform ω v) k) =
      (Finset.range v.length).sum fun j => image (cell v j) * (ω : Fp) ^ (j * k) := by
  rw [transform_cell ω v k hk, image_wordOf (powerSum_lt _ _), cast_powerSum, cast_fpow ω (hk.trans_le h64)]
  refine Finset.sum_congr rfl fun j _ => ?_
  rw [← pow_mul, Nat.mul_comm]

/-- One output cell of a transform, as the spec writes it (R131). -/
theorem transform_cell_sum (ω : Nat) (v : List Word) {k : Nat} (hk : k < v.length) (h64 : v.length ≤ 2 ^ 64) :
    cell (transform ω v) k =
      wordOf ((Finset.range v.length).sum (fun j => (cell v j).toNat * ω ^ (j * k)) % Config.P) := by
  refine eq_wordOf_of_image_eq (canonicalCells_cell (transform_canonical ω v) k) ?_
  rw [image_transform ω v hk h64]
  push_cast
  rfl

/-- Every supported length is far below the words' range. -/
theorem length_le_word {l : Nat} (hl : l ≤ 26) : 2 ^ l ≤ 2 ^ 64 := Nat.pow_le_pow_right (by decide) (by omega)

end Sums

/-- Settles O30: the forward transform is the sum of R131, cell by cell. -/
theorem forwardTransformCells : Obligations.ForwardTransformCells := by
  intro s hi hl hx
  refine completes_onlyX hi (transform_length _ _) fun k hk => ?_
  have hsum := transform_cell_sum (rootOfUnity s.logn.toNat) s.mem.x (hx.symm ▸ hk) (hx ▸ length_le_word hl)
  rw [hx] at hsum
  exact hsum

/-- Settles O31: the inverse transform is the same sum over the inverse root. -/
theorem inverseTransformCells : Obligations.InverseTransformCells := by
  intro s hi hl hx
  refine completes_onlyX hi (transform_length _ _) fun j hj => ?_
  have hsum := transform_cell_sum (finv (rootOfUnity s.logn.toNat)) s.mem.x (hx.symm ▸ hj) (hx ▸ length_le_word hl)
  simp only [hx, Nat.mul_comm _ j] at hsum
  exact hsum

section RootPairs

/-- Two numbers whose images are primitive n-th roots of unity and inverse to each other (R130). -/
structure RootPair (n ω ω' : Nat) : Prop where
  primitive : IsPrimitiveRoot (ω : Fp) n
  primitive' : IsPrimitiveRoot (ω' : Fp) n
  inverse : (ω : Fp) * (ω' : Fp) = 1
  pos : 0 < n

theorem RootPair.symm {n ω ω' : Nat} (h : RootPair n ω ω') : RootPair n ω' ω :=
  ⟨h.primitive', h.primitive, by rw [mul_comm, h.inverse], h.pos⟩

/-- The image of the root of unity has order n: its n-th power is 1 and its (n/2)-th power is -1 (R130). -/
theorem isPrimitiveRoot_rootOfUnity {l : Nat} (hl : l ≤ 26) : IsPrimitiveRoot (rootOfUnity l : Fp) (2 ^ l) := by
  have hone : (rootOfUnity l : Fp) ^ 2 ^ l = 1 := by
    rw [← cast_fpow _ (Nat.pow_lt_pow_right (by decide) (by omega)), fpow_rootOfUnity_length hl, Nat.cast_one]
  cases l with
  | zero =>
    rw [pow_zero, pow_one] at hone
    rw [hone]
    exact IsPrimitiveRoot.one
  | succ m =>
    have hhalf : (rootOfUnity (m + 1) : Fp) ^ 2 ^ m ≠ 1 := by
      have hneg := fpow_rootOfUnity_half hl (Nat.succ_pos m)
      rw [Nat.add_sub_cancel] at hneg
      rw [← cast_fpow _ (Nat.pow_lt_pow_right (by decide) (by omega)), hneg]
      intro h
      exact absurd ((ZMod.natCast_eq_natCast_iff' _ 1 Config.P).1 (h.trans Nat.cast_one.symm)) (by decide)
    rw [← orderOf_eq_prime_pow hhalf hone]
    exact IsPrimitiveRoot.orderOf _

/-- The root of unity of every supported length and its inverse (R130). -/
theorem rootPair {l : Nat} (hl : l ≤ 26) : RootPair (2 ^ l) (rootOfUnity l) (finv (rootOfUnity l)) := by
  have : Fact Config.P.Prime := ⟨prime_P⟩
  have hinv : (rootOfUnity l : Fp) * (finv (rootOfUnity l) : Fp) = 1 := by
    rw [← cast_fmul, fmul_finv_rootOfUnity hl, Nat.cast_one]
  refine ⟨isPrimitiveRoot_rootOfUnity hl, ?_, hinv, Nat.two_pow_pos l⟩
  rw [eq_inv_of_mul_eq_one_right hinv]
  exact (isPrimitiveRoot_rootOfUnity hl).inv

/-- Orthogonality: the powers of a root of unity other than 1 sum to 0 (R133). -/
theorem RootPair.sum_pow {n ω ω' : Nat} (h : RootPair n ω ω') (a : Nat) {m : Nat} (hm : m < n) :
    (Finset.range n).sum (fun k => ((ω : Fp) ^ a * (ω' : Fp) ^ m) ^ k) = if a % n = m then (n : Fp) else 0 := by
  have : Fact Config.P.Prime := ⟨prime_P⟩
  have hcancel : (ω : Fp) ^ m * (ω' : Fp) ^ m = 1 := by rw [← mul_pow, h.inverse, one_pow]
  have hmod : (ω : Fp) ^ a = (ω : Fp) ^ (a % n) := by
    rw [← Nat.mod_add_div a n, pow_add, pow_mul, h.primitive.pow_eq_one, one_pow, mul_one, Nat.add_mul_mod_self_left,
      Nat.mod_mod]
  split
  · next heq => simp [hmod, heq, hcancel]
  · next hne =>
    have hz : (ω : Fp) ^ a * (ω' : Fp) ^ m ≠ 1 := by
      intro hz
      refine hne (h.primitive.pow_inj (Nat.mod_lt _ h.pos) hm ?_)
      rw [← hmod]
      exact mul_right_cancel₀ (right_ne_zero_of_mul_eq_one hcancel) (hz.trans hcancel.symm)
    have hpow : ((ω : Fp) ^ a * (ω' : Fp) ^ m) ^ n = 1 := by
      rw [mul_pow, pow_right_comm, h.primitive.pow_eq_one, one_pow, pow_right_comm, h.primitive'.pow_eq_one, one_pow,
        mul_one]
    exact (mul_eq_zero.1 ((mul_neg_geom_sum _ n).trans (by rw [hpow, sub_self]))).resolve_left (sub_ne_zero.2 hz.symm)

end RootPairs

section Convolution
variable {n ω ω' : Nat} {a b : List Word}

/-- The transform of a product of two transforms with the inverse root is n times the cyclic convolution (R133). -/
theorem RootPair.image_convolution (h : RootPair n ω ω') (h64 : n ≤ 2 ^ 64) (ha : a.length = n) (hb : b.length = n)
    {m : Nat} (hm : m < n) :
    image (cell (transform ω' (vectorMul (transform ω a) (transform ω b))) m) =
      n * (Finset.range n).sum fun i => (Finset.range n).sum fun j =>
        if (i + j) % n = m then image (cell a i) * image (cell b j) else 0 := by
  have hlen : (vectorMul (transform ω a) (transform ω b)).length = n := by simp [ha, hb]
  have hprod (k : Nat) (hk : k < n) : image (cell (vectorMul (transform ω a) (transform ω b)) k) =
      (Finset.range n).sum fun i => (Finset.range n).sum fun j =>
        image (cell a i) * image (cell b j) * (ω : Fp) ^ ((i + j) * k) := by
    rw [vectorMul_cell _ _ k (by simpa [ha] using hk) (by simpa [hb] using hk), image_fmul,
      image_transform ω a (ha.symm ▸ hk) (ha ▸ h64), image_transform ω b (hb.symm ▸ hk) (hb ▸ h64), ha, hb,
      Finset.sum_mul_sum]
    refine Finset.sum_congr rfl fun i _ => Finset.sum_congr rfl fun j _ => ?_
    rw [Nat.add_mul, pow_add]
    ring
  calc image (cell (transform ω' (vectorMul (transform ω a) (transform ω b))) m)
      = (Finset.range n).sum fun k => image (cell (vectorMul (transform ω a) (transform ω b)) k) *
          (ω' : Fp) ^ (k * m) := by rw [image_transform ω' _ (hlen.symm ▸ hm) (hlen ▸ h64), hlen]
    _ = (Finset.range n).sum fun k => (Finset.range n).sum fun i => (Finset.range n).sum fun j =>
          image (cell a i) * image (cell b j) * ((ω : Fp) ^ (i + j) * (ω' : Fp) ^ m) ^ k := by
        refine Finset.sum_congr rfl fun k hk => ?_
        rw [hprod k (Finset.mem_range.1 hk), Finset.sum_mul]
        refine Finset.sum_congr rfl fun i _ => ?_
        rw [Finset.sum_mul]
        refine Finset.sum_congr rfl fun j _ => ?_
        rw [mul_pow, ← pow_mul, ← pow_mul, Nat.mul_comm k m, mul_assoc]
    _ = (Finset.range n).sum fun i => (Finset.range n).sum fun j =>
          image (cell a i) * image (cell b j) *
            (Finset.range n).sum fun k => ((ω : Fp) ^ (i + j) * (ω' : Fp) ^ m) ^ k := by
        rw [Finset.sum_comm]
        refine Finset.sum_congr rfl fun i _ => ?_
        rw [Finset.sum_comm]
        exact Finset.sum_congr rfl fun j _ => (Finset.mul_sum _ _ _).symm
    _ = _ := by
        rw [Finset.mul_sum]
        refine Finset.sum_congr rfl fun i _ => ?_
        rw [Finset.mul_sum]
        refine Finset.sum_congr rfl fun j _ => ?_
        rw [h.sum_pow (i + j) hm]
        split <;> ring

/-- A transform undone by the transform with the inverse root gives n times the array (R133). -/
theorem RootPair.image_roundTrip (h : RootPair n ω ω') (h64 : n ≤ 2 ^ 64) (ha : a.length = n) {i : Nat} (hi : i < n) :
    image (cell (transform ω' (transform ω a)) i) = image (cell a i) * n := by
  have hlen : (transform ω a).length = n := by simp [ha]
  calc image (cell (transform ω' (transform ω a)) i)
      = (Finset.range n).sum fun k => (Finset.range n).sum fun j =>
          image (cell a j) * ((ω : Fp) ^ j * (ω' : Fp) ^ i) ^ k := by
        rw [image_transform ω' _ (hlen.symm ▸ hi) (hlen ▸ h64), hlen]
        refine Finset.sum_congr rfl fun k hk => ?_
        rw [image_transform ω a (ha.symm ▸ Finset.mem_range.1 hk) (ha ▸ h64), ha, Finset.sum_mul]
        refine Finset.sum_congr rfl fun j _ => ?_
        rw [mul_pow, ← pow_mul, ← pow_mul, Nat.mul_comm k i, mul_assoc]
    _ = (Finset.range n).sum fun j => image (cell a j) * if j = i then (n : Fp) else 0 := by
        rw [Finset.sum_comm]
        refine Finset.sum_congr rfl fun j hj => ?_
        rw [← Finset.mul_sum, h.sum_pow j hi, Nat.mod_eq_of_lt (Finset.mem_range.1 hj)]
    _ = image (cell a i) * n := by
        rw [Finset.sum_eq_single_of_mem i (Finset.mem_range.2 hi) fun j _ hj => by rw [if_neg hj, mul_zero], if_pos rfl]

end Convolution

/-- Settles O32: both orders of the round trip and the convolution follow from orthogonality. -/
theorem transformRoundTripAndConvolution : Obligations.TransformRoundTripAndConvolution := by
  intro l a b hl ha hb _ _
  have hpair := rootPair hl
  have h64 := length_le_word hl
  have hcanon (ω : Nat) (v : List Word) (i : Nat) : (cell (transform ω v) i).toNat < Config.P :=
    canonicalCells_cell (transform_canonical ω v) i
  refine ⟨fun i hi => ?there, fun i hi => ?back, fun k hk => ?convolution⟩
  case there =>
    refine eq_wordOf_of_image_eq (hcanon _ _ i) ((hpair.image_roundTrip h64 ha hi).trans ?_)
    rw [Nat.cast_mul, image]
  case back =>
    refine eq_wordOf_of_image_eq (hcanon _ _ i) ((hpair.symm.image_roundTrip h64 ha hi).trans ?_)
    rw [Nat.cast_mul, image]
  case convolution =>
    refine eq_wordOf_of_image_eq (hcanon _ _ k) ((hpair.image_convolution h64 ha hb hk).trans ?_)
    push_cast
    rfl

section FourStep

/-- A sum over `m c + r` for all r and c is a sum over all numbers below `m C`. -/
theorem sum_range_mul {R : Type} [AddCommMonoid R] (m C : Nat) (f : Nat → R) :
    (Finset.range (m * C)).sum f = (Finset.range C).sum fun c => (Finset.range m).sum fun r => f (r + m * c) := by
  induction C with
  | zero => simp
  | succ C ih =>
    rw [Nat.mul_succ, Finset.sum_range_add, ih, Finset.sum_range_succ]
    congr 1
    exact Finset.sum_congr rfl fun r _ => by rw [Nat.add_comm]

variable {ω m : Nat} {x : List Word}

/-- The twiddled row r after step 2 of R140, in the field. -/
theorem image_fourStepRow (hm : m * m ≤ 2 ^ 26) {r k2 : Nat} (hr : r < m) (hk : k2 < m) :
    image (cell (fourStepRow ω m x r) k2) =
      (Finset.range m).sum fun c => image (cell x (r + m * c)) * (ω : Fp) ^ (m * c * k2 + r * k2) := by
  have hmm : m ≤ m * m := Nat.le_mul_self m
  have hrk : r * k2 < 2 ^ 64 := (Nat.mul_lt_mul'' hr hk).trans (by omega)
  have hlen : ((List.range m).map fun c => cell x (r + m * c)).length = m := by simp
  rw [fourStepRow, cell_map_range _ hk, image_wordOf (fmul_lt _ _), cast_fmul, cast_fpow ω hrk, ← image,
    image_transform _ _ (hlen.symm ▸ hk) (by rw [hlen]; omega), hlen, Finset.sum_mul]
  refine Finset.sum_congr rfl fun c hc => ?_
  rw [cell_map_range _ (Finset.mem_range.1 hc), cast_fpow ω (by omega), ← pow_mul, mul_assoc, ← pow_add,
    Nat.mul_assoc]

/-- The output of the four steps at `k2 + m k1`, in the field (R140). -/
theorem image_fourStep (hm : m * m ≤ 2 ^ 26) {k : Nat} (hk : k < m * m) :
    image (cell (fourStep ω m x) k) =
      (Finset.range m).sum fun r => (Finset.range m).sum fun c =>
        image (cell x (r + m * c)) * (ω : Fp) ^ (m * c * (k % m) + r * (k % m) + m * (r * (k / m))) := by
  have hmpos : 0 < m := Nat.pos_of_ne_zero (by rintro rfl; omega)
  have hmm : m ≤ m * m := Nat.le_mul_self m
  have hk2 : k % m < m := Nat.mod_lt k hmpos
  have hk1 : k / m < m := Nat.div_lt_of_lt_mul hk
  have hlen (f : List Word → Word) (g : Nat → List Word) : (((List.range m).map g).map f).length = m := by simp
  rw [fourStep, cell_map_range _ hk, getD_map_range _ _ hk2, fourStepColumn,
    image_transform _ _ (by rw [hlen]; exact hk1) (by rw [hlen]; omega), hlen]
  refine Finset.sum_congr rfl fun r hr => ?_
  rw [List.map_map, cell_map_range _ (Finset.mem_range.1 hr), Function.comp_apply,
    image_fourStepRow hm (Finset.mem_range.1 hr) hk2, cast_fpow ω (by omega), ← pow_mul, Finset.sum_mul]
  refine Finset.sum_congr rfl fun c _ => ?_
  rw [mul_assoc, ← pow_add]

/-- Bailey's four steps compute the transform of an `m * m` array, when the root's `m * m`-th power is 1 (R138, R140):
splitting both indices, the exponents differ by a multiple of `m * m`. -/
theorem fourStep_eq_transform (hm : m * m ≤ 2 ^ 26) (hω : (ω : Fp) ^ (m * m) = 1) (hx : x.length = m * m) :
    fourStep ω m x = transform ω x := by
  have hlen : (fourStep ω m x).length = m * m := by simp [fourStep]
  refine cells_ext (by rw [hlen, transform_length, hx]) fun k hk => ?_
  rw [hlen] at hk
  have hmpos : 0 < m := Nat.pos_of_ne_zero (by rintro rfl; omega)
  have hcanon : (cell (fourStep ω m x) k).toNat < Config.P := by
    rw [fourStep, cell_map_range _ hk, getD_map_range _ _ (Nat.mod_lt k hmpos), fourStepColumn]
    exact canonicalCells_cell (transform_canonical _ _) _
  refine eq_of_image_eq hcanon (canonicalCells_cell (transform_canonical _ _) _) ?_
  rw [image_fourStep hm hk, image_transform ω x (hx.symm ▸ hk) (by rw [hx]; omega), hx, sum_range_mul, Finset.sum_comm]
  refine Finset.sum_congr rfl fun c _ => Finset.sum_congr rfl fun r _ => ?_
  have hexp : (r + m * c) * k = m * c * (k % m) + r * (k % m) + m * (r * (k / m)) + m * m * (c * (k / m)) := by
    conv_lhs => rw [← Nat.mod_add_div k m]
    ring
  rw [hexp, pow_add _ _ (m * m * _), pow_mul _ (m * m), hω, one_pow, mul_one]

end FourStep

/-- Settles O33: both roots have `2^(2h)`-th power 1. -/
theorem fourStepComputesTransform : Obligations.FourStepComputesTransform := by
  intro h x hh hx
  have hpair := rootPair (l := 2 * h) (by omega)
  have hsq : 2 ^ h * 2 ^ h = 2 ^ (2 * h) := by rw [← pow_add, two_mul]
  have hm : 2 ^ h * 2 ^ h ≤ 2 ^ 26 := hsq ▸ Nat.pow_le_pow_right (by decide) (by omega)
  exact ⟨fourStep_eq_transform hm (hsq ▸ hpair.primitive.pow_eq_one) hx,
    fourStep_eq_transform hm (hsq ▸ hpair.primitive'.pow_eq_one) hx⟩

/-! ### Weighting -/

section Weighting
variable {s : State}

theorem EngineTables.w_length (h : EngineTables s) : s.mem.w.length = s.n := by rw [h.w_eq, weightTable_length]

theorem EngineTables.u_length (h : EngineTables s) : s.mem.u.length = s.n := by rw [h.u_eq, unweightTable_length]

theorem EngineTables.dw_length (h : EngineTables s) : s.mem.dw.length = s.n := by rw [h.dw_eq, digitTable_length]

/-- Weight, unweight and n multiply to 1 in the field (R157). -/
theorem image_weight_unweight (h : EngineTables s) {i : Nat} (hi : i < s.n) :
    image (cell s.mem.w i) * image (cell s.mem.u i) * (s.n : Fp) = 1 := by
  have := congrArg (Nat.cast (R := Fp)) (fmul_weight_unweight h hi)
  rwa [cast_fmul, cast_fmul, Nat.cast_one] at this

/-- A command that completes hands its state to the rest of the list. -/
theorem execAll_cons_next {i : Instr} {s t : State} (rest : List Instr) (h : exec i s = .next t) :
    execAll (i :: rest) s = execAll rest t := by simp only [execAll, h]

end Weighting

/-- Settles O28: limb by limb, `x w u n = x` in the field. -/
theorem weightThenUnweightDividesByLength : Obligations.WeightThenUnweightDividesByLength := by
  rintro s ⟨hinv, hi⟩
  have h := hinv.tables hi
  have hw : s.mem.w.length = s.mem.x.length := h.w_length.trans h.x_length.symm
  have hu : s.mem.u.length = s.mem.x.length := h.u_length.trans h.x_length.symm
  have hweight : exec .vmulw s = .next (s.setX (vectorMul s.mem.x s.mem.w)) := needInit_pass _ _ _ hi
  have hunweight : exec .vmulu (s.setX (vectorMul s.mem.x s.mem.w)) =
      .next (s.setX (vectorMul (vectorMul s.mem.x s.mem.w) s.mem.u)) := needInit_pass _ _ _ hi
  refine ⟨s.setX (vectorMul (vectorMul s.mem.x s.mem.w) s.mem.u), ?completes, onlyX_setX (by simp [hw, hu]),
    fun i hi => ?cell⟩
  case completes => rw [execAll_cons_next _ hweight, execAll_cons_next _ hunweight, execAll]
  case cell =>
    have hx : i < s.mem.x.length := h.x_length.symm ▸ hi
    have hcell : image (cell (vectorMul (vectorMul s.mem.x s.mem.w) s.mem.u) i) * (s.n : Fp) = image (cell s.mem.x i) := by
      rw [vectorMul_cell _ _ i (by simpa [hw] using hx) (hu.symm ▸ hx), image_fmul,
        vectorMul_cell _ _ i hx (hw.symm ▸ hx), image_fmul, mul_assoc, mul_assoc, ← mul_assoc (image (cell s.mem.w i)),
        image_weight_unweight h hi, mul_one]
    have hcanon := canonicalCells_cell h.x_canonical i
    refine (eq_mod_of_cast_eq hcanon ?_).symm
    rw [Nat.cast_mul]
    exact hcell.symm

end Sys2Proof.Machine
end

section
/-! PROOFS. The carry unit (44_carry_engine.md sections 1 to 3). The loop of ADD_PROC and SUB_PROC carries a total, the
value of the limbs plus the carry at its address; a step keeps it, and passing the last limb lowers it by a multiple of
`2^q - 1`. The congruences follow from that, and so does termination (R189): once every limb has been visited, each lap
with a carry brings the total nearer to the range of a valid state by at least `2^q - 1`. -/

namespace Sys2Proof.Machine

section Positions
variable {dw : List Digit} {x : List Word}

@[simp] theorem bitAddress_zero (dw : List Digit) : bitAddress dw 0 = 0 := by simp [bitAddress]

theorem bitAddress_cons (d : Digit) (dw : List Digit) (i : Nat) :
    bitAddress (d :: dw) (i + 1) = d.toNat + bitAddress dw i := by
  simp [bitAddress]

/-- The next address is one digit width on (R180). -/
theorem bitAddress_succ (dw : List Digit) (i : Nat) : bitAddress dw (i + 1) = bitAddress dw i + digit dw i := by
  induction dw generalizing i with
  | nil => simp [bitAddress, digit]
  | cons d dw ih =>
    cases i with
    | zero => simp [bitAddress, digit]
    | succ i =>
      rw [bitAddress_cons, ih, bitAddress_cons, Nat.add_assoc]
      rfl

/-- The address after the last limb is the sum of the widths (R180). -/
theorem bitAddress_length (dw : List Digit) : bitAddress dw dw.length = (dw.map BitVec.toNat).sum := by
  rw [bitAddress, List.take_length]

/-- The value of limbs as a sum over the addresses (R19, R180). -/
theorem limbValue_eq_sum (h : x.length = dw.length) :
    limbValue x dw = (Finset.range x.length).sum fun i => (cell x i).toNat * 2 ^ bitAddress dw i := by
  induction x generalizing dw with
  | nil => simp [limbValue]
  | cons a x ih =>
    cases dw with
    | nil => cases h
    | cons d dw =>
      rw [limbValue, ih (Nat.succ.inj h), List.length_cons, Finset.sum_range_succ', Finset.mul_sum, add_comm]
      congr 1
      · refine Finset.sum_congr rfl fun i _ => ?_
        rw [bitAddress_cons, pow_add, ← mul_assoc, mul_comm (2 ^ d.toNat), mul_assoc]
        rfl
      · simp [cell]

/-- What writing a limb does to the value. -/
theorem limbValue_set (h : x.length = dw.length) {i : Nat} (hi : i < x.length) (v : Word) :
    (limbValue (x.set i v) dw : Int) =
      limbValue x dw + ((v.toNat : Int) - (cell x i).toNat) * 2 ^ bitAddress dw i := by
  induction x generalizing dw i with
  | nil => cases hi
  | cons a x ih =>
    cases dw with
    | nil => cases h
    | cons d dw =>
      cases i with
      | zero =>
        simp only [List.set_cons_zero, limbValue, bitAddress_zero, cell, List.getD_cons_zero]
        push_cast
        ring
      | succ i =>
        have hcell : cell (a :: x) (i + 1) = cell x i := rfl
        have hrest := ih (Nat.succ.inj h) (Nat.lt_of_succ_lt_succ hi)
        simp only [List.set_cons_succ, limbValue, bitAddress_cons, hcell]
        push_cast
        rw [hrest, pow_add]
        ring

/-- A valid state cell by cell (R19, R40). -/
theorem validLimbs_iff : validLimbs x dw = true ↔
    x.length = dw.length ∧ ∀ i, i < x.length → (cell x i).toNat < 2 ^ digit dw i := by
  induction x generalizing dw with
  | nil => cases dw <;> simp [validLimbs]
  | cons a x ih =>
    cases dw with
    | nil => simp [validLimbs]
    | cons d dw =>
      rw [validLimbs, Bool.and_eq_true, decide_eq_true_eq, ih, List.length_cons, List.length_cons, Nat.add_right_cancel_iff]
      constructor
      · rintro ⟨ha, hlen, hx⟩
        refine ⟨hlen, fun i hi => ?_⟩
        cases i with
        | zero => exact ha
        | succ i => exact hx i (Nat.lt_of_succ_lt_succ hi)
      · rintro ⟨hlen, hx⟩
        exact ⟨hx 0 (Nat.succ_pos _), hlen, fun i hi => hx (i + 1) (Nat.succ_lt_succ hi)⟩

/-- The value of a valid state is below two to the sum of the widths (R180). -/
theorem limbValue_lt (h : validLimbs x dw = true) : limbValue x dw < 2 ^ (dw.map BitVec.toNat).sum := by
  induction x generalizing dw with
  | nil =>
    cases dw with
    | nil => decide
    | cons d dw => cases h
  | cons a x ih =>
    cases dw with
    | nil => cases h
    | cons d dw =>
      rw [validLimbs, Bool.and_eq_true, decide_eq_true_eq] at h
      have hrest := Nat.mul_le_mul_left (2 ^ d.toNat) (ih h.2)
      rw [limbValue, List.map_cons, List.sum_cons, pow_add]
      rw [Nat.mul_succ] at hrest
      omega

end Positions

/-- What the carry unit needs of the digit widths: n of them, each narrower than a cell, with the sum q (R43, R156). -/
structure DigitWidths (dw : List Digit) (n q : Nat) : Prop where
  length : dw.length = n
  pos : 0 < n
  width_le : ∀ d ∈ dw, d.toNat ≤ 31
  sum : (dw.map BitVec.toNat).sum = q
  two_le : 2 ≤ q

theorem EngineTables.digitWidths {s : State} (h : EngineTables s) : DigitWidths s.mem.dw s.n s.q.toNat where
  length := h.dw_length
  pos := s.n_pos
  width_le d hd := by
    obtain ⟨i, hi, rfl⟩ := List.getElem_of_mem hd
    have hin : i < s.n := h.dw_length ▸ hi
    have hdigit := h.digit_eq hin
    rw [digit, List.getD_eq_getElem _ _ hi] at hdigit
    have hle := h.width_le
    rcases limbWidth_eq (q := s.q.toNat) s.n_pos i with hw | hw <;> rw [hdigit, hw] <;> omega
  sum := h.sum_dw
  two_le := h.two_le_q

/-- The value of the limbs plus the carry at the address of limb i (R187, R190). -/
def loopTotal (dw : List Digit) (x : List Word) (c : Int) (i : Nat) : Int :=
  limbValue x dw + c * 2 ^ bitAddress dw i

/-- The modulus of the values: the Mersenne number of the exponent (R180). -/
def mersenne (q : Nat) : Int := 2 ^ q - 1

theorem three_le_mersenne {q : Nat} (h : 2 ≤ q) : 3 ≤ mersenne q := by
  have : (2 : Int) ^ 2 ≤ 2 ^ q := pow_le_pow_right₀ (by decide) h
  unfold mersenne
  omega

/-- The limbs after the loop's step at limb i (R181, R187). -/
def stepLimbs (dw : List Digit) (x : List Word) (c : Int) (i : Nat) : List Word :=
  x.set i (addStep (digit dw i) (cell x i) c).1

/-- The carry out of the loop's step at limb i (R181, R187). -/
def stepCarry (dw : List Digit) (x : List Word) (c : Int) (i : Nat) : Int := (addStep (digit dw i) (cell x i) c).2

section Steps
variable {dw : List Digit} {n q : Nat} {x : List Word} {c : Int} {i : Nat}

@[simp] theorem stepLimbs_length : (stepLimbs dw x c i).length = x.length := List.length_set

/-- A limb step writes a valid limb and leaves the others (R181). -/
theorem stepLimbs_cell_lt {k : Nat} (hi : i < x.length) (hk : k ≠ i → (cell x k).toNat < 2 ^ digit dw k) :
    (cell (stepLimbs dw x c i) k).toNat < 2 ^ digit dw k := by
  by_cases hki : k = i
  · subst hki
    rw [stepLimbs, cell_set_same _ _ _ hi]
    exact addStep_limb_lt _ _ _
  · rw [stepLimbs, cell_set_other _ _ _ _ hki]
    exact hk hki

/-- A limb step keeps a valid state (R181). -/
theorem validLimbs_stepLimbs (hv : validLimbs x dw = true) (hi : i < x.length) :
    validLimbs (stepLimbs dw x c i) dw = true := by
  rw [validLimbs_iff, stepLimbs_length]
  obtain ⟨hlen, hx⟩ := validLimbs_iff.1 hv
  exact ⟨hlen, fun k hk => stepLimbs_cell_lt hi fun _ => hx k hk⟩

/-- The carry grows by less than a cell's range (R181). -/
theorem stepCarry_natAbs_le : (stepCarry dw x c i).natAbs ≤ c.natAbs + 2 ^ 64 := by
  have hcell := word_toNat_lt (cell x i)
  calc (stepCarry dw x c i).natAbs ≤ (((cell x i).toNat : Int) + c).natAbs := Int.natAbs_ediv_le_natAbs _ _
    _ ≤ c.natAbs + 2 ^ 64 := by omega

/-- On a limb below its bound a positive carry leaves no negative one (R181, R189). -/
theorem stepCarry_nonneg (hx : (cell x i).toNat < 2 ^ digit dw i) (hc : 0 ≤ c) : 0 ≤ stepCarry dw x c i :=
  (Int.ediv_nonneg hc (two_pow_pos_int _).le).trans (addStep_carry_bounds _ _ _ hx).1

/-- On a limb below its bound a borrow leaves no positive carry (R181, R189). -/
theorem stepCarry_nonpos (hx : (cell x i).toNat < 2 ^ digit dw i) (hc : c ≤ 0) : stepCarry dw x c i ≤ 0 := by
  refine (addStep_carry_bounds _ _ _ hx).2.trans (Int.lt_add_one_iff.1 ?_)
  exact Int.ediv_lt_of_lt_mul (two_pow_pos_int _) (by omega)

section Total
variable (h : DigitWidths dw n q)
include h

theorem DigitWidths.digit_le_word (i : Nat) : digit dw i ≤ 64 := (digit_le h.width_le i).trans (by decide)

theorem DigitWidths.address_length : bitAddress dw n = q := by rw [← h.length, bitAddress_length, h.sum]

/-- A limb step keeps the total until it passes the last limb (R181, R187). -/
theorem loopTotal_step (hx : x.length = n) (hi : i < n) :
    loopTotal dw (stepLimbs dw x c i) (stepCarry dw x c i) ((i + 1) % n) =
      loopTotal dw x c i - if i + 1 = n then stepCarry dw x c i * mersenne q else 0 := by
  have hvalue : ((addStep (digit dw i) (cell x i) c).1.toNat : Int) + 2 ^ digit dw i * stepCarry dw x c i =
      (cell x i).toNat + c := by
    have := addStep_value (digit dw i) (h.digit_le_word i) (cell x i) c
    push_cast at this
    exact this
  have hset := limbValue_set (hx.trans h.length.symm) (hx ▸ hi) (addStep (digit dw i) (cell x i) c).1
  have hcarry : loopTotal dw (stepLimbs dw x c i) (stepCarry dw x c i) (i + 1) = loopTotal dw x c i := by
    rw [loopTotal, loopTotal, stepLimbs, hset, bitAddress_succ, pow_add]
    linear_combination 2 ^ bitAddress dw i * hvalue
  split
  · next hlast =>
    have hq : bitAddress dw (i + 1) = q := hlast ▸ h.address_length
    rw [← hcarry, loopTotal, loopTotal, hlast, Nat.mod_self, bitAddress_zero, ← hlast, hq, mersenne]
    ring
  · next hnext => rw [Nat.mod_eq_of_lt (by omega), hcarry, sub_zero]

/-- The total is kept mod `2^q - 1` (R187, R190). -/
theorem loopTotal_step_modEq (hx : x.length = n) (hi : i < n) :
    loopTotal dw (stepLimbs dw x c i) (stepCarry dw x c i) ((i + 1) % n) ≡ loopTotal dw x c i [ZMOD mersenne q] := by
  rw [loopTotal_step h hx hi]
  refine Int.modEq_iff_dvd.2 ?_
  split
  · exact ⟨stepCarry dw x c i, by ring⟩
  · exact ⟨0, by ring⟩

end Total

end Steps

section Loops
variable {dw : List Digit} {n : Nat}

/-- A loop that still has a carry takes one step (R187). -/
theorem limbLoop_step {fuel : Nat} {x : List Word} {c : Int} {i : Nat} (hc : c ≠ 0) :
    limbLoop addStep dw n (fuel + 1) x c i =
      limbLoop addStep dw n fuel (stepLimbs dw x c i) (stepCarry dw x c i) ((i + 1) % n) := by
  rw [limbLoop, if_neg hc]
  rfl

/-- What every step of the loop keeps holds, with the carry 0, of the limbs it ends with. -/
theorem limbLoop_induction {Inv : List Word → Int → Nat → Prop}
    (hstep : ∀ x c i, Inv x c i → Inv (stepLimbs dw x c i) (stepCarry dw x c i) ((i + 1) % n))
    {fuel : Nat} {x y : List Word} {c : Int} {i : Nat} (h0 : Inv x c i)
    (h : limbLoop addStep dw n fuel x c i = some y) : ∃ j, Inv y 0 j := by
  induction fuel generalizing x c i with
  | zero =>
    rw [limbLoop] at h
    split at h
    · next hc =>
      cases h
      exact ⟨i, hc ▸ h0⟩
    · cases h
  | succ fuel ih =>
    by_cases hc : c = 0
    · subst hc
      rw [limbLoop_zero] at h
      cases h
      exact ⟨i, h0⟩
    · rw [limbLoop_step hc] at h
      exact ih (hstep _ _ _ h0) h

/-- After k steps the loop has ended or goes on from a state that k steps reach. -/
theorem limbLoop_after_steps {Inv : Nat → List Word → Int → Nat → Prop}
    (hstep : ∀ j x c i, Inv j x c i → Inv (j + 1) (stepLimbs dw x c i) (stepCarry dw x c i) ((i + 1) % n))
    (k fuel : Nat) {j : Nat} {x : List Word} {c : Int} {i : Nat} (h0 : Inv j x c i) :
    (∃ y, limbLoop addStep dw n (k + fuel) x c i = some y) ∨
    ∃ x' c' i', Inv (j + k) x' c' i' ∧
      limbLoop addStep dw n (k + fuel) x c i = limbLoop addStep dw n fuel x' c' i' := by
  induction k generalizing j x c i with
  | zero => exact .inr ⟨x, c, i, h0, by rw [Nat.zero_add]⟩
  | succ k ih =>
    by_cases hc : c = 0
    · exact .inl ⟨x, by rw [hc, limbLoop_zero]⟩
    · rw [Nat.succ_add k fuel, limbLoop_step hc, Nat.add_succ j k, ← Nat.succ_add j k]
      exact ih (hstep _ _ _ _ h0)

/-- A loop ends within a measure that every step from a carry to a carry lowers. -/
theorem limbLoop_ends_of_measure {Inv : List Word → Int → Nat → Prop} (measure : List Word → Int → Nat → Nat)
    (hpos : ∀ x c i, Inv x c i → 0 < measure x c i)
    (hstep : ∀ x c i, Inv x c i → Inv (stepLimbs dw x c i) (stepCarry dw x c i) ((i + 1) % n))
    (hlt : ∀ x c i, Inv x c i → c ≠ 0 → stepCarry dw x c i ≠ 0 →
      measure (stepLimbs dw x c i) (stepCarry dw x c i) ((i + 1) % n) < measure x c i)
    {fuel : Nat} {x : List Word} {c : Int} {i : Nat} (h0 : Inv x c i) (hfuel : measure x c i ≤ fuel) :
    ∃ y, limbLoop addStep dw n fuel x c i = some y := by
  induction fuel generalizing x c i with
  | zero => exact absurd hfuel (Nat.not_le.2 (hpos x c i h0))
  | succ fuel ih =>
    by_cases hc : c = 0
    · exact ⟨x, by rw [hc, limbLoop_zero]⟩
    · rw [limbLoop_step hc]
      by_cases hc' : stepCarry dw x c i = 0
      · exact ⟨_, by rw [hc', limbLoop_zero]⟩
      · exact ih (hstep x c i h0) (Nat.lt_succ_iff.1 ((hlt x c i h0 hc hc').trans_le hfuel))

end Loops

section Termination
variable {dw : List Digit} {n q : Nat} (h : DigitWidths dw n q)

/-- A loop that runs on a valid state (R180, R187). -/
structure ValidLoop (dw : List Digit) (n : Nat) (x : List Word) (i : Nat) : Prop where
  valid : validLimbs x dw = true
  length : x.length = n
  index : i < n

theorem ValidLoop.step {x : List Word} {c : Int} {i : Nat} (hv : ValidLoop dw n x i) :
    ValidLoop dw n (stepLimbs dw x c i) ((i + 1) % n) where
  valid := validLimbs_stepLimbs hv.valid (hv.length ▸ hv.index)
  length := stepLimbs_length.trans hv.length
  index := Nat.mod_lt _ (Nat.zero_lt_of_lt hv.index)

theorem ValidLoop.cell_lt {x : List Word} {i : Nat} (hv : ValidLoop dw n x i) :
    (cell x i).toNat < 2 ^ digit dw i := (validLimbs_iff.1 hv.valid).2 i (hv.length ▸ hv.index)

/-- How far the total of a valid state with a carry is from the side the loop moves it to: down to 0 with a carry, up to
`2^q - 1` with a borrow (R189). -/
def loopDistance (dw : List Digit) (q : Nat) (x : List Word) (c : Int) (i : Nat) : Int :=
  if 0 < c then loopTotal dw x c i else mersenne q - loopTotal dw x c i

/-- A bound on the limb steps from a valid state: the limbs up to the end of the lap, and one lap for each `2^q - 1` in
the distance. -/
def loopMeasure (dw : List Digit) (n q : Nat) (x : List Word) (c : Int) (i : Nat) : Nat :=
  n * (loopDistance dw q x c i / mersenne q).toNat + (n - i)

include h

/-- The value of a valid state is at most `2^q - 1` (R180). -/
theorem limbValue_le_mersenne {x : List Word} (hv : validLimbs x dw = true) : (limbValue x dw : Int) ≤ mersenne q := by
  have hlt : ((limbValue x dw : Nat) : Int) < ((2 ^ q : Nat) : Int) := by
    rw [← h.sum]
    exact_mod_cast limbValue_lt hv
  push_cast at hlt
  exact Int.le_sub_one_of_lt hlt

theorem loopDistance_nonneg {x : List Word} {c : Int} {i : Nat} (hv : validLimbs x dw = true) :
    0 ≤ loopDistance dw q x c i := by
  have hle := limbValue_le_mersenne h hv
  have hpow : (0 : Int) < 2 ^ bitAddress dw i := by positivity
  unfold loopDistance loopTotal
  split
  · next hc => positivity
  · next hc =>
    have := mul_nonneg (by omega : 0 ≤ -c) hpow.le
    linarith

/-- A step from a carry to a carry keeps the distance, and lowers it by at least `2^q - 1` when it passes the last limb. -/
theorem loopDistance_step {x : List Word} {c : Int} {i : Nat} (hv : ValidLoop dw n x i) (hc : c ≠ 0)
    (hc' : stepCarry dw x c i ≠ 0) :
    loopDistance dw q (stepLimbs dw x c i) (stepCarry dw x c i) ((i + 1) % n) ≤
      loopDistance dw q x c i - if i + 1 = n then mersenne q else 0 := by
  have hM : 0 < mersenne q := (by decide : (0 : Int) < 3).trans_le (three_le_mersenne h.two_le)
  have htotal := loopTotal_step h (c := c) hv.length hv.index
  unfold loopDistance
  rw [htotal]
  rcases lt_or_gt_of_ne hc with hneg | hpos
  · have hsign : stepCarry dw x c i < 0 := lt_of_le_of_ne (stepCarry_nonpos hv.cell_lt hneg.le) hc'
    rw [if_neg hsign.not_gt, if_neg hneg.not_gt]
    split
    · have := mul_le_mul_of_nonneg_right (by omega : stepCarry dw x c i ≤ -1) hM.le
      linarith
    · linarith
  · have hsign : 0 < stepCarry dw x c i := lt_of_le_of_ne (stepCarry_nonneg hv.cell_lt hpos.le) (Ne.symm hc')
    rw [if_pos hsign, if_pos hpos]
    split
    · have := mul_le_mul_of_nonneg_right (by omega : 1 ≤ stepCarry dw x c i) hM.le
      linarith
    · linarith

theorem loopMeasure_step {x : List Word} {c : Int} {i : Nat} (hv : ValidLoop dw n x i) (hc : c ≠ 0)
    (hc' : stepCarry dw x c i ≠ 0) :
    loopMeasure dw n q (stepLimbs dw x c i) (stepCarry dw x c i) ((i + 1) % n) < loopMeasure dw n q x c i := by
  have hM : 0 < mersenne q := (by decide : (0 : Int) < 3).trans_le (three_le_mersenne h.two_le)
  have hdist := loopDistance_step h hv hc hc'
  have hnonneg := loopDistance_nonneg h (c := stepCarry dw x c i) (i := (i + 1) % n) (hv.step (c := c)).valid
  have hi := hv.index
  unfold loopMeasure
  generalize loopDistance dw q (stepLimbs dw x c i) (stepCarry dw x c i) ((i + 1) % n) = d' at hdist hnonneg ⊢
  generalize loopDistance dw q x c i = d at hdist ⊢
  have hquot : 0 ≤ d' / mersenne q := Int.ediv_nonneg hnonneg hM.le
  split at hdist
  · next hlast =>
    have hle : d' / mersenne q + 1 ≤ d / mersenne q := by
      rw [← Int.add_mul_ediv_right _ _ hM.ne']
      exact Int.ediv_le_ediv hM (by linarith)
    have hlap : n * ((d' / mersenne q).toNat + 1) ≤ n * (d / mersenne q).toNat := Nat.mul_le_mul_left n (by omega)
    rw [hlast, Nat.mod_self]
    rw [Nat.mul_succ] at hlap
    omega
  · next hnext =>
    have hle : d' / mersenne q ≤ d / mersenne q := Int.ediv_le_ediv hM (by linarith)
    have hlap : n * (d' / mersenne q).toNat ≤ n * (d / mersenne q).toNat := Nat.mul_le_mul_left n (by omega)
    rw [Nat.mod_eq_of_lt (by omega)]
    omega

/-- The loop ends from every valid state within its measure (R189). -/
theorem limbLoop_ends_of_valid {x : List Word} {c : Int} {i fuel : Nat} (hv : ValidLoop dw n x i)
    (hfuel : loopMeasure dw n q x c i ≤ fuel) : ∃ y, limbLoop addStep dw n fuel x c i = some y :=
  limbLoop_ends_of_measure (Inv := fun x _ i => ValidLoop dw n x i) (loopMeasure dw n q)
    (fun _ _ _ hv => Nat.add_pos_right _ (Nat.sub_pos_of_lt hv.index)) (fun _ _ _ hv => hv.step)
    (fun _ _ _ hv => loopMeasure_step h hv) hv hfuel

/-- At limb 0 of a valid state the measure is at most a lap for each 3 of the carry, and two (R189). -/
theorem loopMeasure_zero_le {x : List Word} {c : Int} (hv : validLimbs x dw = true) :
    loopMeasure dw n q x c 0 ≤ n * (c.natAbs / 3 + 2) := by
  have hM := three_le_mersenne h.two_le
  have hle := limbValue_le_mersenne h hv
  have hdist : loopDistance dw q x c 0 ≤ c.natAbs + 1 * mersenne q := by
    unfold loopDistance loopTotal
    rw [bitAddress_zero, pow_zero, mul_one]
    split <;> omega
  have hquot : loopDistance dw q x c 0 / mersenne q ≤ (c.natAbs : Int) / 3 + 1 :=
    calc loopDistance dw q x c 0 / mersenne q
        ≤ (c.natAbs + 1 * mersenne q) / mersenne q := Int.ediv_le_ediv (by omega) hdist
      _ = c.natAbs / mersenne q + 1 := Int.add_mul_ediv_right _ _ (by omega)
      _ ≤ c.natAbs / 3 + 1 := by
          have hquot : 0 ≤ (c.natAbs : Int) / mersenne q := Int.ediv_nonneg (by omega) (by omega)
          have := (mul_le_mul_of_nonneg_left hM hquot).trans (Int.ediv_mul_le _ (by omega))
          omega
  have hlaps : n * (loopDistance dw q x c 0 / mersenne q).toNat ≤ n * (c.natAbs / 3 + 1) :=
    Nat.mul_le_mul_left n (by omega)
  rw [loopMeasure, Nat.mul_succ]
  omega

omit h in
/-- The first steps of a loop from limb `i0`, whatever the limbs: to limb 0, and then over every limb once (R189). -/
structure FirstLaps (dw : List Digit) (n i0 : Nat) (c0 : Int) (j : Nat) (x : List Word) (c : Int) (i : Nat) : Prop where
  length : x.length = n
  index : i = (i0 + j) % n
  carry : c.natAbs ≤ c0.natAbs + j * 2 ^ 64
  visited : ∀ k, k < n → n - i0 + k < j → (cell x k).toNat < 2 ^ digit dw k

omit h in
theorem FirstLaps.step {i0 : Nat} {c0 : Int} (hi0 : i0 < n) {j : Nat} {x : List Word} {c : Int} {i : Nat}
    (hf : FirstLaps dw n i0 c0 j x c i) :
    FirstLaps dw n i0 c0 (j + 1) (stepLimbs dw x c i) (stepCarry dw x c i) ((i + 1) % n) where
  length := stepLimbs_length.trans hf.length
  index := by rw [hf.index, Nat.mod_add_mod, Nat.add_assoc]
  carry := by
    have := stepCarry_natAbs_le (dw := dw) (x := x) (c := c) (i := i)
    have := hf.carry
    omega
  visited k hk hkj := by
    have hi : i < x.length := hf.length ▸ hf.index ▸ Nat.mod_lt _ (Nat.zero_lt_of_lt hi0)
    refine stepLimbs_cell_lt hi fun hne => hf.visited k hk (Nat.lt_of_le_of_ne (Nat.lt_succ_iff.1 hkj) fun hj => hne ?_)
    have hturn : i0 + j = k + n := by omega
    rw [hf.index, hturn, Nat.add_mod_right, Nat.mod_eq_of_lt hk]

/-- ADD_PROC ends from every n limbs, valid or not, with every amount (R189): after the first laps the state is valid and
the loop stands at limb 0, and the fuel covers those laps and the measure that remains. -/
theorem addProc_ends {x : List Word} (c : Int) {i : Nat} (hx : x.length = n) (hi : i < n) :
    ∃ y, addProc dw n x c i = some y := by
  have hstart : FirstLaps dw n i c 0 x c i :=
    ⟨hx, by rw [Nat.add_zero, Nat.mod_eq_of_lt hi], by omega, fun k _ hk => absurd hk (Nat.not_lt_zero _)⟩
  have hlaps : 2 * n ≤ loopFuel n c := by
    rw [Nat.mul_comm]
    exact Nat.mul_le_mul_left n (Nat.le_add_left_of_le (by decide))
  have hfuel : loopFuel n c = 2 * n - i + (loopFuel n c - (2 * n - i)) := by omega
  rw [addProc, hfuel]
  rcases limbLoop_after_steps (fun _ _ _ _ hf => hf.step hi) (2 * n - i) _ hstart with hend | ⟨x', c', i', hf, hgo⟩
  · exact hend
  · have hi' : i' = 0 := by
      rw [hf.index, show i + (0 + (2 * n - i)) = n * 2 by omega, Nat.mul_mod_right]
    have hv : ValidLoop dw n x' i' :=
      ⟨validLimbs_iff.2 ⟨hf.length.trans h.length.symm, fun k hk => hf.visited k (hf.length ▸ hk) (by
        have := hf.length
        omega)⟩, hf.length, hi' ▸ h.pos⟩
    rw [hgo]
    refine limbLoop_ends_of_valid h hv ?_
    subst hi'
    have hmeasure := loopMeasure_zero_le h (c := c') hv.valid
    have hcarry : c'.natAbs / 3 + 2 ≤ c.natAbs + n * 2 ^ 64 + 2 := by
      have hbound := hf.carry
      have hsteps : (0 + (2 * n - i)) * 2 ^ 64 ≤ 2 * (n * 2 ^ 64) := by omega
      omega
    have hlapsLeft := hmeasure.trans (Nat.mul_le_mul_left n hcarry)
    have hsplit : loopFuel n c = n * (c.natAbs + n * 2 ^ 64 + 2) + 2 * n := by rw [loopFuel]; ring
    omega

/-- A loop from a valid state ends in a valid state whose value is the total mod `2^q - 1` (R187, R190). -/
theorem addProc_value {x y : List Word} {c : Int} {i : Nat} (hv : ValidLoop dw n x i)
    (hy : addProc dw n x c i = some y) :
    validLimbs y dw = true ∧ (limbValue y dw : Int) ≡ loopTotal dw x c i [ZMOD mersenne q] := by
  obtain ⟨j, hend, hmod⟩ := limbLoop_induction
    (Inv := fun x' c' i' => ValidLoop dw n x' i' ∧ loopTotal dw x' c' i' ≡ loopTotal dw x c i [ZMOD mersenne q])
    (fun x' c' i' hinv => ⟨hinv.1.step, (loopTotal_step_modEq h hinv.1.length hinv.1.index).trans hinv.2⟩)
    ⟨hv, Int.ModEq.refl _⟩ hy
  rw [loopTotal, zero_mul, add_zero] at hmod
  exact ⟨hend.valid, hmod⟩

end Termination

section Pass
variable {x : List Word} {dw : List Digit} {c : Int}

/-- The first pass of CARRY leaves a valid state (R182). -/
theorem carryPass_valid (h : x.length = dw.length) : validLimbs (carryPass x dw c).1 dw = true := by
  induction x generalizing dw c with
  | nil =>
    cases dw with
    | nil => rfl
    | cons => cases h
  | cons a x ih =>
    cases dw with
    | nil => cases h
    | cons d dw =>
      rw [carryPass, validLimbs, Bool.and_eq_true, decide_eq_true_eq]
      exact ⟨addStep_limb_lt _ _ _, ih (Nat.succ.inj h)⟩

/-- The first pass of CARRY keeps the value, with the carry out at the address after the last limb (R182). -/
theorem carryPass_value (h : x.length = dw.length) (hd : ∀ d ∈ dw, d.toNat ≤ 31) :
    (limbValue (carryPass x dw c).1 dw : Int) + (carryPass x dw c).2 * 2 ^ (dw.map BitVec.toNat).sum =
      limbValue x dw + c := by
  induction x generalizing dw c with
  | nil =>
    cases dw with
    | nil => simp [carryPass, limbValue]
    | cons => cases h
  | cons a x ih =>
    cases dw with
    | nil => cases h
    | cons d dw =>
      obtain ⟨hd0, hd⟩ := List.forall_mem_cons.1 hd
      have hstep := addStep_value d.toNat (hd0.trans (by decide)) a c
      have hrest := ih (c := (addStep d.toNat a c).2) (Nat.succ.inj h) hd
      simp only [carryPass, limbValue, List.map_cons, List.sum_cons, pow_add]
      push_cast at hstep hrest ⊢
      linear_combination hstep + 2 ^ d.toNat * hrest

/-- The first pass of CARRY leaves a valid state as it is (R182 corner case). -/
theorem carryPass_of_valid (h : validLimbs x dw = true) : carryPass x dw 0 = (x, 0) := by
  induction x generalizing dw with
  | nil => cases dw <;> rfl
  | cons a x ih =>
    cases dw with
    | nil => cases h
    | cons d dw =>
      rw [validLimbs, Bool.and_eq_true, decide_eq_true_eq] at h
      have ha : (a.toNat : Int) < ((2 ^ d.toNat : Nat) : Int) := by exact_mod_cast h.1
      have hstep : addStep d.toNat a 0 = (a, 0) := by
        rw [addStep, add_zero, Int.emod_eq_of_lt (Int.natCast_nonneg _) ha, Int.ediv_eq_zero_of_lt (Int.natCast_nonneg _) ha,
          Int.toNat_natCast, wordOf_toNat]
      rw [carryPass, hstep, ih h.2]

end Pass

section CarryProc
variable {dw : List Digit} {n q : Nat} (h : DigitWidths dw n q) {x : List Word}
include h

/-- CARRY ends from every n limbs (R182, R189). -/
theorem carryProc_ends (hx : x.length = n) : ∃ y, carryProc dw n x = some y := by
  rw [carryProc]
  split
  · exact addProc_ends h _ (by simpa using hx) h.pos
  · exact ⟨_, rfl⟩

/-- CARRY leaves a valid state of the same value mod `2^q - 1` (R182). -/
theorem carryProc_value {y : List Word} (hx : x.length = n) (hy : carryProc dw n x = some y) :
    validLimbs y dw = true ∧ (limbValue y dw : Int) ≡ limbValue x dw [ZMOD mersenne q] := by
  have hlen : x.length = dw.length := hx.trans h.length.symm
  have hvalid := carryPass_valid (c := 0) hlen
  have hvalue := carryPass_value (c := 0) hlen h.width_le
  rw [h.sum] at hvalue
  have hmod : loopTotal dw (carryPass x dw 0).1 (carryPass x dw 0).2 0 ≡ limbValue x dw [ZMOD mersenne q] := by
    refine Int.modEq_iff_dvd.2 ⟨(carryPass x dw 0).2, ?_⟩
    rw [loopTotal, bitAddress_zero, mersenne]
    linear_combination -hvalue
  rw [carryProc] at hy
  split at hy
  · obtain ⟨hv, hval⟩ := addProc_value h ⟨hvalid, by simpa using hx, h.pos⟩ hy
    exact ⟨hv, hval.trans hmod⟩
  · next hc =>
    cases hy
    rw [not_not] at hc
    rw [loopTotal, hc, zero_mul, add_zero] at hmod
    exact ⟨hvalid, hmod⟩

omit h in
/-- CARRY leaves a valid state as it is (R182 corner case). -/
theorem carryProc_of_valid (hv : validLimbs x dw = true) : carryProc dw n x = some x := by
  rw [carryProc, carryPass_of_valid hv]
  exact if_neg (not_not.2 rfl)

end CarryProc

section Commands
variable {s : State}

/-- The modulus as the statements write it (R180). -/
theorem natCast_two_pow_sub_one (q : Nat) : ((2 ^ q - 1 : Nat) : Int) = mersenne q := by
  rw [Nat.cast_sub Nat.one_le_two_pow, mersenne]
  push_cast
  rfl

/-- A congruence of values over the naturals is one over the integers. -/
theorem modEq_iff_mersenne {a b q : Nat} : a ≡ b [MOD 2 ^ q - 1] ↔ (a : Int) ≡ b [ZMOD mersenne q] := by
  rw [← natCast_two_pow_sub_one, Int.natCast_modEq_iff]

/-- Two states that agree in the registers and the tables that belong to (Q, LOGN) (R44, R47). -/
structure SameTables (s t : State) : Prop where
  q : t.q = s.q
  logn : t.logn = s.logn
  width : t.width = s.width
  root2 : t.root2 = s.root2
  strat : t.strat = s.strat
  w : t.mem.w = s.mem.w
  u : t.mem.u = s.mem.u
  dw : t.mem.dw = s.mem.dw

/-- The facts of an initialised engine rest on its registers, its tables and the canonical form of X only (R47). -/
theorem EngineTables.of_same {t : State} (h : EngineTables s) (e : SameTables s t) (hl : t.mem.x.length = s.n)
    (hc : canonicalCells t.mem.x = true) : EngineTables t := by
  have hn : t.n = s.n := by rw [State.n, State.n, e.logn]
  constructor
  case logn_le => rw [e.logn]; exact h.logn_le
  case two_le_q => rw [e.q]; exact h.two_le_q
  case guard_passes => rw [e.logn, e.q]; exact h.guard_passes
  case width_eq => rw [e.width, e.q, hn]; exact h.width_eq
  case root2_eq => rw [e.root2, hn]; exact h.root2_eq
  case strat_eq => rw [e.strat, e.logn]; exact h.strat_eq
  case w_eq => rw [e.w, e.q, hn]; exact h.w_eq
  case u_eq => rw [e.u, e.q, hn]; exact h.u_eq
  case dw_eq => rw [e.dw, e.q, hn]; exact h.dw_eq
  case x_length => rw [hn]; exact hl
  case x_canonical => exact hc

/-- The invariant of an initialised engine, in the parts that a write of X or of a count leaves as they are (R40, R47). -/
theorem Ready.of_same {t : State} (hs : Ready s) (e : SameTables s t) (hl : t.mem.x.length = s.n)
    (hc : canonicalCells t.mem.x = true) (hstatus : t.status = s.status) (hresid : t.resid = s.resid)
    (hfault : t.fault = s.fault) (hfinfo : t.finfo = s.finfo) : Ready t := by
  obtain ⟨hinv, hi⟩ := hs
  refine ⟨?_, hstatus ▸ hi⟩
  constructor
  case idle => rw [hstatus]; exact hinv.idle
  case logn_le => rw [e.logn]; exact hinv.logn_le
  case tables => exact fun _ => (hinv.tables hi).of_same e hl hc
  case no_tables => exact fun h => absurd (hi.symm.trans (hstatus ▸ h)) (by decide)
  case halted => rw [hstatus, hresid]; exact hinv.halted
  case fail_init => rw [hstatus]; exact hinv.fail_init
  case no_record => rw [hstatus, hfault, hfinfo]; exact hinv.no_record
  case fault_reserved => rw [hfault]; exact hinv.fault_reserved

/-- A whole new X of field elements keeps the invariant of an initialised engine (R40, R47). -/
theorem ready_setX (hs : Ready s) {l : List Word} (hl : l.length = s.n) (hc : canonicalCells l = true) :
    Ready (s.setX l) :=
  hs.of_same ⟨rfl, rfl, rfl, rfl, rfl, rfl, rfl, rfl⟩ hl hc rfl rfl rfl rfl

/-- The tables of an initialised engine (R47). -/
theorem Ready.tables (hs : Ready s) : EngineTables s := hs.1.tables hs.2

/-- What ADD_PROC of a carry primitive leaves, from a state of the invariant (R187 to R190). -/
structure AddResult (s : State) (c : Int) (i : Nat) (y : List Word) : Prop where
  frame : OnlyX s (s.setX y)
  ready : Ready (s.setX y)
  valid : validLimbs s.mem.x s.mem.dw = true → validLimbs y s.mem.dw = true
  value : validLimbs s.mem.x s.mem.dw = true →
    (limbValue y s.mem.dw : Int) ≡ limbValue s.mem.x s.mem.dw + c * 2 ^ bitAddress s.mem.dw i [ZMOD mersenne s.q.toNat]

/-- ADD_PROC ends from every state of the invariant, with the result above. -/
theorem addProc_result (hs : Ready s) (c : Int) {i : Nat} (hi : i < s.n) :
    ∃ y, addProc s.mem.dw s.n s.mem.x c i = some y ∧ AddResult s c i y := by
  have ht := hs.tables
  have hw := ht.digitWidths
  obtain ⟨y, hy⟩ := addProc_ends hw c ht.x_length hi
  have hlen := addProc_length hy
  have hvalue (hv : validLimbs s.mem.x s.mem.dw = true) := addProc_value hw ⟨hv, ht.x_length, hi⟩ hy
  exact ⟨y, hy, onlyX_setX hlen, ready_setX hs (hlen.trans ht.x_length)
    (addProc_canonical hw.width_le ht.x_canonical hy), fun hv => (hvalue hv).1, fun hv => (hvalue hv).2⟩

section Primitives
variable {ra rb : SReg} (hs : Ready s) (hi : (s.readS rb).toNat < s.n)
include hs hi

/-- ADD64 on a state of the invariant (R188). -/
theorem exec_add64_result : ∃ y, exec (.add64 ra rb) s = .next (s.setX y) ∧
    AddResult s (s.readS ra).toNat (s.readS rb).toNat y := by
  obtain ⟨y, hy, hres⟩ := addProc_result hs (s.readS ra).toNat hi
  refine ⟨y, ?_, hres⟩
  rw [exec, execAdd64, needInit_pass _ _ _ hs.2, needIndex_pass _ _ _ _ hi, hy, finishX]

/-- ADD32 on a state of the invariant (R187). -/
theorem exec_add32_result (hc : (s.readS ra).toNat < 2 ^ 32) : ∃ y, exec (.add32 ra rb) s = .next (s.setX y) ∧
    AddResult s (s.readS ra).toNat (s.readS rb).toNat y := by
  obtain ⟨y, hy, hres⟩ := addProc_result hs (s.readS ra).toNat hi
  refine ⟨y, ?_, hres⟩
  rw [exec, execAdd32, needInit_pass _ _ _ hs.2, needArg_decide_pass hc, needIndex_pass _ _ _ _ hi, hy, finishX]

/-- SUB32 on a state of the invariant: ADD_PROC of the negated amount (R190). -/
theorem exec_sub32_result (hc : (s.readS ra).toNat < 2 ^ 32) : ∃ y, exec (.sub32 ra rb) s = .next (s.setX y) ∧
    AddResult s (-(s.readS ra).toNat) (s.readS rb).toNat y := by
  obtain ⟨y, hy, hres⟩ := addProc_result hs (-(s.readS ra).toNat) hi
  refine ⟨y, ?_, hres⟩
  rw [exec, execSub32, needInit_pass _ _ _ hs.2, needArg_decide_pass hc, needIndex_pass _ _ _ _ hi, subProc_eq_addProc,
    hy, finishX]

end Primitives

end Commands

/-- Settles O42: the pass makes every limb valid, and the loop that takes its carry keeps the value and ends. -/
theorem carryNormalises : Obligations.CarryNormalises := by
  intro s hs
  have ht := hs.tables
  obtain ⟨y, hy⟩ := carryProc_ends ht.digitWidths ht.x_length
  obtain ⟨hvalid, hvalue⟩ := carryProc_value ht.digitWidths ht.x_length hy
  refine ⟨s.setX y, ?completes, onlyX_setX (carryProc_length hy), hvalid, modEq_iff_mersenne.2 hvalue⟩
  case completes => rw [exec, execCarry, needInit_pass _ _ _ hs.2, hy, finishX]

/-- Settles O43: the pass of a valid state has no carry. -/
theorem carryKeepsValidState : Obligations.CarryKeepsValidState := by
  intro s hi hv
  rw [exec, execCarry, needInit_pass _ _ _ hi, carryProc_of_valid hv, finishX]
  rfl

/-- Settles O44: the loop keeps the total, which starts at the value plus the amount at its address. -/
theorem addIncreasesValue : Obligations.AddIncreasesValue := by
  intro s ra rb hs hv hi
  have conclude {o : Outcome} (h : ∃ y, o = .next (s.setX y) ∧ AddResult s (s.readS ra).toNat (s.readS rb).toNat y) :
      ∃ t, o = .next t ∧ OnlyX s t ∧ validLimbs t.mem.x t.mem.dw = true ∧
        limbValue t.mem.x t.mem.dw ≡
          limbValue s.mem.x s.mem.dw + (s.readS ra).toNat * 2 ^ bitAddress s.mem.dw (s.readS rb).toNat
          [MOD 2 ^ s.q.toNat - 1] := by
    obtain ⟨y, ho, hres⟩ := h
    refine ⟨_, ho, hres.frame, hres.valid hv, modEq_iff_mersenne.2 ?_⟩
    push_cast
    exact hres.value hv
  exact ⟨conclude (exec_add64_result hs hi), fun hc => conclude (exec_add32_result hs hi hc)⟩

/-- Settles O45: as O44, for the negated amount. -/
theorem subtractDecreasesValue : Obligations.SubtractDecreasesValue := by
  intro s ra rb hs hv hi hc
  obtain ⟨y, ho, hres⟩ := exec_sub32_result hs hi hc
  refine ⟨_, ho, hres.frame, hres.valid hv, modEq_iff_mersenne.2 ?_⟩
  have hvalue := (hres.value hv).add_right ((s.readS ra).toNat * 2 ^ bitAddress s.mem.dw (s.readS rb).toNat)
  rw [neg_mul, neg_add_cancel_right] at hvalue
  push_cast
  exact hvalue

/-- Settles O46: the loop ends from every state of the invariant, and writes as many field elements as there were. -/
theorem carryLoopsTerminate : Obligations.CarryLoopsTerminate := by
  intro s ra rb hs hi
  have conclude {o : Outcome} {c : Int} (h : ∃ y, o = .next (s.setX y) ∧ AddResult s c (s.readS rb).toNat y) :
      ∃ t, o = .next t ∧ OnlyX s t ∧ Ready t := by
    obtain ⟨y, ho, hres⟩ := h
    exact ⟨_, ho, hres.frame, hres.ready⟩
  exact ⟨conclude (exec_add64_result hs hi), fun hc =>
    ⟨conclude (exec_add32_result hs hi hc), conclude (exec_sub32_result hs hi hc)⟩⟩

end Sys2Proof.Machine
end

section
/-! PROOFS. The Mersenne engine, what MUL and RUN do (44_carry_engine.md sections 4 and 5): completion from every state of
the invariant, and the two equivalences with sequences of commands. -/

namespace Sys2Proof.Machine

section CanonicalMemory

/-- The memories of an initialised engine have the canonical form (R40 to R43). -/
theorem EngineTables.wf {s : State} (h : EngineTables s) : s.mem.wf = true := by
  have hn := h.x_length
  refine (Memory.wf_iff _).2 ⟨h.w_length.trans hn.symm, h.u_length.trans hn.symm, h.dw_length.trans hn.symm,
    h.x_canonical, ?weights, ?unweights, h.digitWidths.width_le⟩
  case weights =>
    rw [h.w_eq]
    exact canonicalCells_map _ _ fun _ _ => weightAt_lt _ _ _ _
  case unweights =>
    rw [h.u_eq]
    refine canonicalCells_map _ _ fun i _ => ?_
    rw [unweightAt_eq _ _ _ h.n_lt_P]
    exact finv_lt _

end CanonicalMemory

/-- Settles O57: the tables of an initialised engine, or no memory at all. -/
theorem invariantGivesCanonicalMemory : Obligations.InvariantGivesCanonicalMemory := by
  intro s hinv
  cases hi : s.status.initok with
  | true => exact (hinv.tables hi).wf
  | false =>
    rw [(hinv.no_tables hi).1]
    exact Memory.wf_empty

section Subtraction
variable {dw : List Digit} {n q : Nat}

/-- The loop that subtracts 2 at limb 0 of a valid state: it carries no positive carry, and its total stays from -2 to
`2^q - 2` (R190, R197). -/
structure BorrowsTwo (dw : List Digit) (n q : Nat) (x : List Word) (c : Int) (i : Nat) : Prop where
  loop : ValidLoop dw n x i
  borrow : c ≤ 0
  low : -2 ≤ loopTotal dw x c i
  high : loopTotal dw x c i ≤ mersenne q - 1

variable (h : DigitWidths dw n q)
include h

/-- At the last limb the borrow out is at most 1, so the total stays in its range when the loop wraps. -/
theorem BorrowsTwo.step {x : List Word} {c : Int} {i : Nat} (hb : BorrowsTwo dw n q x c i) :
    BorrowsTwo dw n q (stepLimbs dw x c i) (stepCarry dw x c i) ((i + 1) % n) := by
  obtain ⟨hloop, hc, hlo, hhi⟩ := hb
  have hM := three_le_mersenne h.two_le
  have hc' : stepCarry dw x c i ≤ 0 := stepCarry_nonpos hloop.cell_lt hc
  have hnext : ValidLoop dw n (stepLimbs dw x c i) ((i + 1) % n) := hloop.step
  have htotal := loopTotal_step h (c := c) hloop.length hloop.index
  split at htotal
  · next hlast =>
    have hnonneg : (0 : Int) ≤ limbValue (stepLimbs dw x c i) dw := Int.natCast_nonneg _
    have hbound := limbValue_le_mersenne h hnext.valid
    have hfirst : loopTotal dw (stepLimbs dw x c i) (stepCarry dw x c i) ((i + 1) % n) =
        limbValue (stepLimbs dw x c i) dw + stepCarry dw x c i := by
      rw [hlast, Nat.mod_self, loopTotal, bitAddress_zero, pow_zero, mul_one]
    have hone : -1 ≤ stepCarry dw x c i := by
      by_contra hlt
      have := mul_le_mul_of_nonneg_right (by omega : stepCarry dw x c i ≤ -2) (by omega : 0 ≤ mersenne q)
      linarith
    obtain hz | hz : stepCarry dw x c i = 0 ∨ stepCarry dw x c i = -1 := by omega
    all_goals
      rw [hz] at htotal hfirst ⊢
      exact ⟨hnext, by decide, by linarith, by linarith⟩
  · exact ⟨hnext, hc', by linarith, by linarith⟩

/-- Subtracting 2 at limb 0 from a valid state does not end all-saturated (R197). -/
theorem subProc_two_ne_mersenne {x y : List Word} (hv : validLimbs x dw = true) (hx : x.length = n)
    (hy : subProc dw n x 2 0 = some y) : (limbValue y dw : Int) ≠ mersenne q := by
  have hnonneg : (0 : Int) ≤ limbValue x dw := Int.natCast_nonneg _
  have hle := limbValue_le_mersenne h hv
  have htotal : loopTotal dw x (-2) 0 = limbValue x dw - 2 := by
    rw [loopTotal, bitAddress_zero]
    ring
  have hstart : BorrowsTwo dw n q x (-2) 0 :=
    ⟨⟨hv, hx, h.pos⟩, by decide, by rw [htotal]; omega, by rw [htotal]; omega⟩
  rw [subProc_eq_addProc] at hy
  obtain ⟨j, hend⟩ := limbLoop_induction (fun _ _ _ hb => hb.step h) hstart hy
  have hhigh := hend.high
  rw [loopTotal, zero_mul, add_zero] at hhigh
  omega

end Subtraction

section Squaring
variable {s : State}

theorem squareStages_length (logn : Nat) {w u x : List Word} (hw : w.length = x.length) (hu : u.length = x.length) :
    (squareStages logn w u x).length = x.length := by
  simp [squareStages, forward, inverse, hw, hu]

/-- MUL_PROC goes on with the subtraction when CARRY ends (R195). -/
theorem mulX_of_carry {m : Memory} {logn : Nat} {y : List Word}
    (h : carryProc m.dw (2 ^ logn) (squareStages logn m.w m.u m.x) = some y) :
    mulX m logn = subProc m.dw (2 ^ logn) y 2 0 := by rw [mulX, h]

/-- What MUL_PROC leaves in X, from a state of the invariant (R195). -/
structure MulResult (s : State) (l : List Word) : Prop where
  length : l.length = s.n
  canonical : canonicalCells l = true
  valid : validLimbs l s.mem.dw = true
  value : (limbValue l s.mem.dw : Int) + 2 ≡
    limbValue (squareStages s.logn.toNat s.mem.w s.mem.u s.mem.x) s.mem.dw [ZMOD mersenne s.q.toNat]
  not_saturated : (limbValue l s.mem.dw : Int) ≠ mersenne s.q.toNat

/-- MUL_PROC ends from every state of the invariant: CARRY makes the limbs valid, and the subtraction keeps them so (R195). -/
theorem mulX_result (h : EngineTables s) : ∃ l, mulX s.mem s.logn.toNat = some l ∧ MulResult s l := by
  have hw := h.digitWidths
  have hsquare : (squareStages s.logn.toNat s.mem.w s.mem.u s.mem.x).length = s.n :=
    (squareStages_length _ (h.w_length.trans h.x_length.symm) (h.u_length.trans h.x_length.symm)).trans h.x_length
  obtain ⟨y, hy⟩ := carryProc_ends hw hsquare
  obtain ⟨hyvalid, hyvalue⟩ := carryProc_value hw hsquare hy
  have hylen : y.length = s.n := (carryProc_length hy).trans hsquare
  obtain ⟨l, hl⟩ := addProc_ends hw (-2) hylen h.digitWidths.pos
  obtain ⟨hlvalid, hlvalue⟩ := addProc_value hw ⟨hyvalid, hylen, hw.pos⟩ hl
  have hsub : subProc s.mem.dw s.n y 2 0 = some l := (subProc_eq_addProc _ _ _ _ _).trans hl
  have hmul : mulX s.mem s.logn.toNat = some l := (mulX_of_carry hy).trans hsub
  refine ⟨l, hmul, addProc_length hl |>.trans hylen, ?canonical, hlvalid, ?value,
    subProc_two_ne_mersenne hw hyvalid hylen hsub⟩
  case canonical => exact ((Memory.wf_iff _).1 (Memory.wf_mulX h.wf hmul)).2.2.2.1
  case value =>
    rw [loopTotal, bitAddress_zero, pow_zero, mul_one] at hlvalue
    have := (hlvalue.add_right 2).trans (by rw [neg_add_cancel_right])
    exact this.trans hyvalue

/-- A new X of field elements and a new ICNT keep the invariant of an initialised engine (R36, R40). -/
theorem ready_setX_setIcnt (hs : Ready s) {l : List Word} (hl : l.length = s.n) (hc : canonicalCells l = true)
    (v : Word) : Ready ((s.setX l).setIcnt v) :=
  hs.of_same ⟨rfl, rfl, rfl, rfl, rfl, rfl, rfl, rfl⟩ hl hc rfl rfl rfl rfl

/-- MUL_PROC on a state of the invariant (R195). -/
theorem mulProc_result (hs : Ready s) :
    ∃ l, mulProc s = some ((s.setX l).setIcnt (s.icnt + 1#64)) ∧ MulResult s l ∧
      Ready ((s.setX l).setIcnt (s.icnt + 1#64)) := by
  obtain ⟨l, hl, hres⟩ := mulX_result hs.tables
  exact ⟨l, by rw [mulProc, hl], hres, ready_setX_setIcnt hs hres.length hres.canonical _⟩

/-- SEED_PROC keeps the invariant of an initialised engine (R200). -/
theorem ready_seedProc (hs : Ready s) : Ready (seedProc s) := by
  have hwf := Memory.wf_seedProc hs.tables.wf hs.tables.x_length
  exact ready_setX_setIcnt hs (seedProc_length s) ((Memory.wf_iff _).1 hwf).2.2.2.1 _

/-- Repeated squaring completes from every state of the invariant, and leaves a valid state when it squares at all (R202). -/
theorem repeatMul_result (count : Nat) (hs : Ready s) :
    ∃ t, repeatMul count s = some t ∧ Ready t ∧ (1 ≤ count → validLimbs t.mem.x t.mem.dw = true) := by
  induction count generalizing s with
  | zero => exact ⟨s, rfl, hs, fun h => absurd h (by decide)⟩
  | succ count ih =>
    obtain ⟨l, hmul, hres, hready⟩ := mulProc_result hs
    obtain ⟨t, hrep, ht, hvalid⟩ := ih hready
    refine ⟨t, by rw [repeatMul_succ, hmul]; exact hrep, ht, fun _ => ?_⟩
    cases count with
    | zero =>
      cases hrep
      exact hres.valid
    | succ count => exact hvalid (Nat.succ_pos count)

/-- MUL on an initialised engine is MUL_PROC (R195). -/
theorem exec_mul_of_initok (hi : s.status.initok = true) : exec .mul s = finishState (mulProc s) :=
  needInit_pass _ _ _ hi

/-- The count of RUN: `Q - 2` for a register that holds 0 (R202). -/
def runLength (s : State) (ra : SReg) : Nat := if s.readS ra = 0#64 then s.q.toNat - 2 else (s.readS ra).toNat

theorem runCount_eq (s : State) (ra : SReg) : runCount s (s.readS ra).toNat = runLength s ra := by
  have hzero : (s.readS ra).toNat = 0 ↔ s.readS ra = 0#64 := (BitVec.toNat_eq (y := 0#64)).symm
  simp only [runCount, runLength, hzero]

/-- RUN on an initialised engine is SEED_PROC and its squarings (R202). -/
theorem exec_run_of_initok (hi : s.status.initok = true) (ra : SReg) :
    exec (.run ra) s = finishState (repeatMul (runLength s ra) (seedProc s)) := by
  rw [← runCount_eq]
  exact needInit_pass _ _ _ hi

end Squaring

/-- Settles O47: MUL_PROC ends in a valid state, and RUN is the induction over its count. -/
theorem mulAndRunComplete : Obligations.MulAndRunComplete := by
  intro s ra hs
  constructor
  · obtain ⟨l, hmul, hres, -⟩ := mulProc_result hs
    refine ⟨(s.setX l).setIcnt (s.icnt + 1#64), ?_, rfl, hres.length, hres.valid⟩
    rw [exec_mul_of_initok hs.2, hmul, finishState]
  · obtain ⟨t, hrep, ht, hvalid⟩ := repeatMul_result (runLength s ra) (ready_seedProc hs)
    obtain ⟨l, rfl⟩ := repeatMul_some hrep
    refine ⟨_, runLength s ra, ?_, rfl, ?_, ht.tables.x_length, hvalid⟩
    · rw [exec_run_of_initok hs.2, hrep, finishState]
    · rw [seedProc_icnt, BitVec.zero_add]
      rfl

section StageSequence
variable {s : State}

/-- A list of one command is the command. -/
theorem execAll_singleton (i : Instr) (s : State) : execAll [i] s = exec i s := by
  simp only [execAll]
  cases exec i s <;> rfl

/-- The first five stages leave the squared and normalised limbs in X (R195, R196). -/
theorem execAll_squareStages (rest : List Instr) (hi : s.status.initok = true) :
    execAll (.vmulw :: .nttf :: .vsqr :: .ntti :: .vmulu :: rest) s =
      execAll rest (s.setX (squareStages s.logn.toNat s.mem.w s.mem.u s.mem.x)) := by
  have hweight : exec .vmulw s = .next (s.setX (vectorMul s.mem.x s.mem.w)) := needInit_pass _ _ _ hi
  have hforward (x : List Word) : exec .nttf (s.setX x) = .next (s.setX (forward s.logn.toNat x)) :=
    needInit_pass _ _ _ hi
  have hsquare (x : List Word) : exec .vsqr (s.setX x) = .next (s.setX (vectorSqr x)) := needInit_pass _ _ _ hi
  have hinverse (x : List Word) : exec .ntti (s.setX x) = .next (s.setX (inverse s.logn.toNat x)) :=
    needInit_pass _ _ _ hi
  have hunweight (x : List Word) : exec .vmulu (s.setX x) = .next (s.setX (vectorMul x s.mem.u)) :=
    needInit_pass _ _ _ hi
  rw [execAll_cons_next _ hweight, execAll_cons_next _ (hforward _), execAll_cons_next _ (hsquare _),
    execAll_cons_next _ (hinverse _), execAll_cons_next _ (hunweight _)]
  rfl

/-- CARRY after other writes of X (R182). -/
theorem exec_carry_setX (hi : s.status.initok = true) (x : List Word) :
    exec .carry (s.setX x) = finishX (carryProc s.mem.dw s.n x) (s.setX x) := needInit_pass _ _ _ hi

/-- SUB32 of 2 at limb 0 after other writes of X (R190). -/
theorem exec_sub32_two_setX {ra rb : SReg} (hi : s.status.initok = true) (ha : s.readS ra = 2#64)
    (hb : s.readS rb = 0#64) (x : List Word) :
    exec (.sub32 ra rb) (s.setX x) = finishX (subProc s.mem.dw s.n x 2 0) s := by
  have hi' : (s.setX x).status.initok = true := hi
  have ha' : (s.setX x).readS ra = 2#64 := ha
  have hb' : (s.setX x).readS rb = 0#64 := hb
  have hindex : (0#64).toNat < (s.setX x).n := State.n_pos _
  rw [exec, execSub32, needInit_pass _ _ _ hi', ha', hb', needArg_decide_pass (by decide),
    needIndex_pass _ _ _ _ hindex]
  change finishX (subProc s.mem.dw s.n x 2 0) (s.setX x) = _
  cases subProc s.mem.dw s.n x 2 0 <;> rfl

/-- The seven stage commands are MUL_PROC without its count (R196). -/
theorem execAll_stages {ra rb : SReg} (hi : s.status.initok = true) (ha : s.readS ra = 2#64) (hb : s.readS rb = 0#64) :
    execAll [.vmulw, .nttf, .vsqr, .ntti, .vmulu, .carry, .sub32 ra rb] s =
      finishX (mulX s.mem s.logn.toNat) s := by
  have hcarry := exec_carry_setX hi (squareStages s.logn.toNat s.mem.w s.mem.u s.mem.x)
  rw [execAll_squareStages _ hi]
  cases hy : carryProc s.mem.dw (2 ^ s.logn.toNat) (squareStages s.logn.toNat s.mem.w s.mem.u s.mem.x) with
  | none =>
    have hmul : mulX s.mem s.logn.toNat = none := by rw [mulX, hy]
    rw [State.n, hy, finishX] at hcarry
    simp only [execAll, hcarry, hmul, finishX]
  | some y =>
    rw [State.n, hy, finishX] at hcarry
    rw [execAll_cons_next _ hcarry, execAll_singleton, mulX_of_carry hy]
    exact exec_sub32_two_setX hi ha hb y

end StageSequence

/-- Settles O48: the stages end exactly when MUL_PROC does, in the state that differs in ICNT. -/
theorem mulIsStageSequence : Obligations.MulIsStageSequence := by
  intro s t ra rb hi ha hb
  rw [execAll_stages hi ha hb, exec_mul_of_initok hi, mulProc]
  cases mulX s.mem s.logn.toNat with
  | none => exact ⟨nofun, nofun⟩
  | some l =>
    constructor
    · intro h
      cases h
      rfl
    · intro h
      cases h
      rfl

/-- A list of MUL commands is repeated squaring (R202, R203). -/
theorem execAll_replicate_mul {s : State} (count : Nat) (hi : s.status.initok = true) :
    execAll (List.replicate count .mul) s = finishState (repeatMul count s) := by
  induction count generalizing s with
  | zero => rfl
  | succ count ih =>
    have hmul := exec_mul_of_initok hi
    rw [List.replicate_succ, repeatMul_succ]
    cases hp : mulProc s with
    | none => simp only [execAll, hmul, hp, finishState, Option.bind_none]
    | some u =>
      obtain ⟨l, -, rfl⟩ := mulProc_some hp
      rw [hp, finishState] at hmul
      rw [execAll_cons_next _ hmul, ih (s := (s.setX l).setIcnt (s.icnt + 1#64)) hi, Option.bind_some]

/-- Settles O51: both sides are the same number of squarings after SEED_PROC. -/
theorem runIsSeedThenMuls : Obligations.RunIsSeedThenMuls := by
  intro s ra hi
  rw [exec_run_of_initok hi, execAll_cons_next _ (exec_seed_of_initok hi), execAll_replicate_mul (s := seedProc s) _ hi,
    runLength]

end Sys2Proof.Machine
end

section
/-! PROOFS. What MUL computes (44_carry_engine.md section 4, R197). The weights turn the cyclic convolution of the transform
into the product of the limbs at their addresses: with q coprime to n the weight of limb i is `2^(addr(i) - q i/n)` in the
field, so the product of two weights is the third times a power of two, and the sums stay below P by the guard. -/

namespace Sys2Proof.Machine

section Addresses
variable {q n : Nat}

/-- The address of a sum of indices is the sum of the addresses, or one less (R154). -/
theorem limbAddr_add (hn : 0 < n) (i j : Nat) :
    limbAddr q n (i + j) ≤ limbAddr q n i + limbAddr q n j ∧
      limbAddr q n i + limbAddr q n j ≤ limbAddr q n (i + j) + 1 := by
  obtain ⟨hi, hi'⟩ := limbAddr_bounds (q := q) hn i
  obtain ⟨hj, hj'⟩ := limbAddr_bounds (q := q) hn j
  obtain ⟨hs, hs'⟩ := limbAddr_bounds (q := q) hn (i + j)
  rw [Nat.mul_add] at hs hs'
  constructor
  · refine Nat.lt_succ_iff.1 (Nat.lt_of_mul_lt_mul_left (a := n) ?_)
    rw [Nat.mul_succ, Nat.mul_add]
    omega
  · refine Nat.lt_succ_iff.1 (Nat.lt_of_mul_lt_mul_left (a := n) ?_)
    rw [Nat.mul_succ, Nat.mul_succ, Nat.mul_add]
    omega

/-- A whole turn of the indices moves the address by the exponent (R154). -/
theorem limbAddr_add_turns (hn : 0 < n) (k t : Nat) : limbAddr q n (k + n * t) = limbAddr q n k + q * t := by
  obtain ⟨h, h'⟩ := limbAddr_bounds (q := q) hn k
  have hturn : q * (k + n * t) = q * k + n * (q * t) := by ring
  refine limbAddr_unique hn ?_ ?_ <;> rw [hturn, Nat.mul_add] <;> omega

/-- The bits by which the addresses of i and j exceed the address of `i + j`: 0 or 1. -/
def addressExcess (q n i j : Nat) : Nat := limbAddr q n i + limbAddr q n j - limbAddr q n (i + j)

theorem addressExcess_spec (hn : 0 < n) (i j : Nat) :
    limbAddr q n i + limbAddr q n j =
      addressExcess q n i j + limbAddr q n ((i + j) % n) + q * ((i + j) / n) := by
  have hle := (limbAddr_add (q := q) hn i j).1
  have hturn := limbAddr_add_turns (q := q) hn ((i + j) % n) ((i + j) / n)
  rw [Nat.mod_add_div] at hturn
  unfold addressExcess
  omega

theorem addressExcess_le (hn : 0 < n) (i j : Nat) : addressExcess q n i j ≤ 1 := by
  have := (limbAddr_add (q := q) hn i j).2
  unfold addressExcess
  omega

/-- The exponent of a weight as an address (R157): `n addr(i) - q i`, when n divides `q i` for no limb but 0. -/
theorem weightAt_eq_pow (root2 : Nat) (hcop : Nat.Coprime q n) {i : Nat} (hi : i < n) (hn : n ≤ 2 ^ 26) :
    weightAt root2 q n i = root2 ^ (n * limbAddr q n i - q * i) % Config.P := by
  by_cases h0 : i = 0
  · subst h0
    rw [weightAt, if_pos rfl, limbAddr_zero (Nat.zero_lt_of_lt hi)]
    simp only [Nat.mul_zero, Nat.sub_zero, pow_zero]
    decide
  · have hmod : q * i % n ≠ 0 := fun h =>
      h0 (Nat.eq_zero_of_dvd_of_lt (hcop.symm.dvd_of_dvd_mul_left (Nat.dvd_of_mod_eq_zero h)) hi)
    have hdiv := Nat.div_add_mod (q * i) n
    have hexp : n * limbAddr q n i - q * i = n - q * i % n := by
      rw [limbAddr, if_pos hmod, Nat.mul_succ]
      omega
    rw [hexp, weightAt, if_neg h0]
    exact fpow_eq _ _ (by omega)

end Addresses

section WeightProducts
variable {s : State} (h : EngineTables s) (hcop : Nat.Coprime s.q.toNat s.n)
include h hcop

theorem image_weight {i : Nat} (hi : i < s.n) :
    image (cell s.mem.w i) = (rootTwo s.n : Fp) ^ (s.n * limbAddr s.q.toNat s.n i - s.q.toNat * i) := by
  have hn : s.n ≤ 2 ^ 26 := Nat.pow_le_pow_right (by decide) h.logn_le
  rw [image, h.w_cell hi, weightAt_eq_pow _ hcop hi hn, cast_mod, Nat.cast_pow]

/-- The product of two weights is the weight of the sum of the indices, times 2 where the addresses exceed (R157, R197). -/
theorem image_weight_mul {i j : Nat} (hi : i < s.n) (hj : j < s.n) :
    image (cell s.mem.w i) * image (cell s.mem.w j) =
      image (cell s.mem.w ((i + j) % s.n)) * 2 ^ addressExcess s.q.toNat s.n i j := by
  have hn := s.n_pos
  have htwo : (rootTwo s.n : Fp) ^ s.n = 2 := by
    have hroot := congrArg (Nat.cast (R := Fp)) (fpow_rootTwo h.logn_le)
    rwa [cast_fpow _ (Nat.pow_lt_pow_right (by decide) (by have := h.logn_le; simp only [Config.MAX_LOG_N] at this; omega))]
      at hroot
  have hsplit := Nat.mod_add_div (i + j) s.n
  rw [image_weight h hcop hi, image_weight h hcop hj, image_weight h hcop (Nat.mod_lt _ hn), ← htwo, ← pow_mul,
    ← pow_add, ← pow_add]
  generalize s.q.toNat = q
  generalize s.n = n at hn hsplit ⊢
  congr 1
  have hspec := congrArg (n * ·) (addressExcess_spec (q := q) hn i j)
  have hindex := congrArg (q * ·) hsplit
  have hi' := (limbAddr_bounds (q := q) hn i).1
  have hj' := (limbAddr_bounds (q := q) hn j).1
  have hk' := (limbAddr_bounds (q := q) hn ((i + j) % n)).1
  simp only [Nat.mul_add] at hspec hindex
  have hcomm : n * (q * ((i + j) / n)) = q * (n * ((i + j) / n)) := by ring
  omega

end WeightProducts

section Square

/-- Limb k of the squared value before its carries: the products of the limbs whose indices sum to k mod n, each doubled
where the addresses exceed (R197). -/
def squareLimb (q n : Nat) (x : List Word) (k : Nat) : Nat :=
  (Finset.range n).sum fun i => (Finset.range n).sum fun j =>
    if (i + j) % n = k then (cell x i).toNat * (cell x j).toNat * 2 ^ addressExcess q n i j else 0

/-- Limbs so small that no sum of the squaring reaches P. -/
def SmallLimbs (n : Nat) (x : List Word) : Prop :=
  ∃ b, (∀ i, i < n → (cell x i).toNat ≤ b) ∧ 2 * b * (Finset.range n).sum (fun i => (cell x i).toNat) < Config.P

/-- At most one index completes i to k mod n. -/
theorem index_of_sum_mod {n i j k : Nat} (hi : i < n) (hj : j < n) (h : (i + j) % n = k) : j = (k + (n - i)) % n := by
  by_cases hlt : i + j < n
  · rw [Nat.mod_eq_of_lt hlt] at h
    rw [show k + (n - i) = j + n by omega, Nat.add_mod_right, Nat.mod_eq_of_lt hj]
  · rw [Nat.mod_eq_sub_mod (by omega), Nat.mod_eq_of_lt (by omega)] at h
    rw [show k + (n - i) = j by omega, Nat.mod_eq_of_lt hj]

theorem squareLimb_lt {q n : Nat} {x : List Word} (hn : 0 < n) (hs : SmallLimbs n x) (k : Nat) :
    squareLimb q n x k < Config.P := by
  obtain ⟨b, hb, hsum⟩ := hs
  refine lt_of_le_of_lt ?_ hsum
  rw [squareLimb, Finset.mul_sum]
  refine Finset.sum_le_sum fun i hi => ?_
  have hi := Finset.mem_range.1 hi
  have hj : (k + (n - i)) % n < n := Nat.mod_lt _ hn
  rw [Finset.sum_eq_single_of_mem _ (Finset.mem_range.2 hj) fun j hj hne =>
    if_neg fun hk => hne (index_of_sum_mod hi (Finset.mem_range.1 hj) hk)]
  split
  · have hexcess : 2 ^ addressExcess q n i ((k + (n - i)) % n) ≤ 2 ^ 1 :=
      Nat.pow_le_pow_right (by decide) (addressExcess_le hn _ _)
    calc (cell x i).toNat * (cell x ((k + (n - i)) % n)).toNat * 2 ^ addressExcess q n i ((k + (n - i)) % n)
        ≤ (cell x i).toNat * b * 2 ^ 1 := Nat.mul_le_mul (Nat.mul_le_mul_left _ (hb _ hj)) hexcess
      _ = 2 * b * (cell x i).toNat := by ring
  · exact Nat.zero_le _

/-- Two to the exponent is 1 modulo the Mersenne number (R180). -/
theorem two_pow_eq_one (q : Nat) : (2 : ZMod (2 ^ q - 1)) ^ q = 1 := by
  have hself : ((2 ^ q - 1 : Nat) : ZMod (2 ^ q - 1)) = 0 := ZMod.natCast_self _
  rw [Nat.cast_sub Nat.one_le_two_pow, sub_eq_zero] at hself
  simpa using hself

/-- The squared limbs at their addresses have the value of the square (R197). -/
theorem squareLimb_value (q : Nat) {n : Nat} (hn : 0 < n) (x : List Word) :
    (((Finset.range n).sum fun k => squareLimb q n x k * 2 ^ limbAddr q n k : Nat) : ZMod (2 ^ q - 1)) =
      (((Finset.range n).sum fun i => (cell x i).toNat * 2 ^ limbAddr q n i : Nat) : ZMod (2 ^ q - 1)) ^ 2 := by
  have hterm (i j : Nat) : ((Finset.range n).sum fun k =>
      (if (i + j) % n = k then ((cell x i).toNat : ZMod (2 ^ q - 1)) * (cell x j).toNat * 2 ^ addressExcess q n i j
        else 0) * 2 ^ limbAddr q n k) =
      (cell x i).toNat * 2 ^ limbAddr q n i * ((cell x j).toNat * 2 ^ limbAddr q n j) := by
    rw [Finset.sum_eq_single_of_mem ((i + j) % n) (Finset.mem_range.2 (Nat.mod_lt _ hn)) fun k _ hne => by
      rw [if_neg hne.symm, zero_mul], if_pos rfl]
    have hpow := congrArg ((2 : ZMod (2 ^ q - 1)) ^ ·) (addressExcess_spec (q := q) hn i j)
    simp only [pow_add, pow_mul, two_pow_eq_one, one_pow, mul_one] at hpow
    linear_combination -((cell x i).toNat : ZMod (2 ^ q - 1)) * (cell x j).toNat * hpow
  push_cast [squareLimb]
  rw [sq, Finset.sum_mul_sum]
  simp only [Finset.sum_mul]
  rw [Finset.sum_comm]
  refine Finset.sum_congr rfl fun i _ => ?_
  rw [Finset.sum_comm]
  exact Finset.sum_congr rfl fun j _ => hterm i j

end Square

section SquareStages
variable {s : State} (h : EngineTables s)

theorem vectorSqr_eq_vectorMul (x : List Word) : vectorSqr x = vectorMul x x := by
  rw [vectorMul, List.zipWith_self]
  rfl

include h

/-- The addresses of an initialised engine's limbs are those of the builder (R154, R180). -/
theorem EngineTables.bitAddress_eq {i : Nat} (hi : i ≤ s.n) : bitAddress s.mem.dw i = limbAddr s.q.toNat s.n i := by
  induction i with
  | zero => rw [bitAddress_zero, limbAddr_zero s.n_pos]
  | succ i ih =>
    have := limbAddr_le_succ (q := s.q.toNat) s.n_pos i
    rw [bitAddress_succ, ih (by omega), h.digit_eq hi, limbWidth]
    omega

/-- The value of n limbs over the builder's addresses. -/
theorem EngineTables.limbValue_eq {x : List Word} (hx : x.length = s.n) :
    limbValue x s.mem.dw = (Finset.range s.n).sum fun i => (cell x i).toNat * 2 ^ limbAddr s.q.toNat s.n i := by
  rw [limbValue_eq_sum (hx.trans h.dw_length.symm), hx]
  refine Finset.sum_congr rfl fun i hi => ?_
  rw [h.bitAddress_eq (Finset.mem_range.1 hi).le]

/-- The stages of MUL_PROC compute the squared limbs exactly (R195, R197). -/
theorem squareStages_cell (hcop : Nat.Coprime s.q.toNat s.n) (hsmall : SmallLimbs s.n s.mem.x) {k : Nat} (hk : k < s.n) :
    (cell (squareStages s.logn.toNat s.mem.w s.mem.u s.mem.x) k).toNat = squareLimb s.q.toNat s.n s.mem.x k := by
  have hx := h.x_length
  have hweighted : (vectorMul s.mem.x s.mem.w).length = s.n := by simp [hx, h.w_length]
  have hcell (i : Nat) (hi : i < s.n) :
      image (cell (vectorMul s.mem.x s.mem.w) i) = image (cell s.mem.x i) * image (cell s.mem.w i) := by
    rw [vectorMul_cell _ _ i (hx.symm ▸ hi) (h.w_length.symm ▸ hi), image_fmul]
  have hpair : RootPair s.n (rootOfUnity s.logn.toNat) (finv (rootOfUnity s.logn.toNat)) := rootPair h.logn_le
  have h64 : s.n ≤ 2 ^ 64 := length_le_word h.logn_le
  have hconv := hpair.image_convolution h64 hweighted hweighted hk
  have hstages : image (cell (squareStages s.logn.toNat s.mem.w s.mem.u s.mem.x) k) =
      (squareLimb s.q.toNat s.n s.mem.x k : Fp) := by
    rw [squareStages, vectorSqr_eq_vectorMul, forward, inverse,
      vectorMul_cell _ _ k (by simpa [hweighted] using hk) (h.u_length.symm ▸ hk), image_fmul, hconv, squareLimb]
    push_cast
    rw [mul_comm, Finset.mul_sum, Finset.mul_sum]
    refine Finset.sum_congr rfl fun i hi => ?_
    rw [Finset.mul_sum, Finset.mul_sum]
    refine Finset.sum_congr rfl fun j hj => ?_
    have hi := Finset.mem_range.1 hi
    have hj := Finset.mem_range.1 hj
    by_cases hsum : (i + j) % s.n = k
    · have hprod := image_weight_mul h hcop hi hj
      have hone := image_weight_unweight h hk
      rw [hsum] at hprod
      rw [if_pos hsum, if_pos hsum, hcell i hi, hcell j hj, ← image, ← image]
      linear_combination image (cell s.mem.u k) * s.n * image (cell s.mem.x i) * image (cell s.mem.x j) * hprod +
        image (cell s.mem.x i) * image (cell s.mem.x j) * 2 ^ addressExcess s.q.toNat s.n i j * hone
    · rw [if_neg hsum, if_neg hsum, mul_zero, mul_zero]
  rw [← Nat.mod_eq_of_lt (squareLimb_lt (q := s.q.toNat) s.n_pos hsmall k)]
  exact eq_mod_of_cast_eq (canonicalCells_cell (vectorMul_canonical _ _) k) hstages

/-- The stages of MUL_PROC square the value mod `2^q - 1` (R197). -/
theorem squareStages_value (hcop : Nat.Coprime s.q.toNat s.n) (hsmall : SmallLimbs s.n s.mem.x) :
    limbValue (squareStages s.logn.toNat s.mem.w s.mem.u s.mem.x) s.mem.dw ≡ limbValue s.mem.x s.mem.dw ^ 2
      [MOD 2 ^ s.q.toNat - 1] := by
  have hx := h.x_length
  have hlen : (squareStages s.logn.toNat s.mem.w s.mem.u s.mem.x).length = s.n :=
    (squareStages_length _ (h.w_length.trans hx.symm) (h.u_length.trans hx.symm)).trans hx
  have hvalue := squareLimb_value s.q.toNat s.n_pos s.mem.x
  refine (ZMod.natCast_eq_natCast_iff _ _ _).1 ?_
  rw [Nat.cast_pow, h.limbValue_eq hx, ← hvalue, h.limbValue_eq hlen]
  refine congrArg _ (Finset.sum_congr rfl fun k hk => ?_)
  rw [squareStages_cell h hcop hsmall (Finset.mem_range.1 hk)]

/-- The limbs of a valid state are small, by the guard (R151). -/
theorem smallLimbs_of_valid {x : List Word} (hv : validLimbs x s.mem.dw = true) : SmallLimbs s.n x := by
  obtain ⟨hlen, hcell⟩ := validLimbs_iff.1 hv
  have hx : x.length = s.n := hlen.trans h.dw_length
  have hbound (i : Nat) (hi : i < s.n) : (cell x i).toNat ≤ 2 ^ (s.q.toNat / s.n + 1) := by
    refine (hcell i (hx.symm ▸ hi)).le.trans (Nat.pow_le_pow_right (by decide) ?_)
    rw [h.digit_eq hi]
    rcases limbWidth_eq (q := s.q.toNat) s.n_pos i with hw | hw <;> rw [hw]
    exact Nat.le_succ _
  refine ⟨_, hbound, ?_⟩
  have hsum : (Finset.range s.n).sum (fun i => (cell x i).toNat) ≤ s.n * 2 ^ (s.q.toNat / s.n + 1) := by
    refine (Finset.sum_le_card_nsmul _ _ _ fun i hi => hbound i (Finset.mem_range.1 hi)).trans ?_
    rw [Finset.card_range, smul_eq_mul]
  have hguard := h.guard
  calc 2 * 2 ^ (s.q.toNat / s.n + 1) * (Finset.range s.n).sum (fun i => (cell x i).toNat)
      ≤ 2 * 2 ^ (s.q.toNat / s.n + 1) * (s.n * 2 ^ (s.q.toNat / s.n + 1)) := Nat.mul_le_mul_left _ hsum
    _ = 2 ^ (2 * (s.q.toNat / s.n) + s.logn.toNat + 3) := by rw [State.n]; ring
    _ ≤ 2 ^ 63 := Nat.pow_le_pow_right (by decide) (by omega)
    _ < Config.P := by decide

/-- MUL_PROC from small limbs, valid or not, leaves the value `v^2 - 2` (R197, R201). -/
theorem MulResult.square_sub_two {l : List Word} (hres : MulResult s l) (hcop : Nat.Coprime s.q.toNat s.n)
    (hsmall : SmallLimbs s.n s.mem.x) :
    (limbValue l s.mem.dw : Int) + 2 ≡ (limbValue s.mem.x s.mem.dw : Int) ^ 2 [ZMOD mersenne s.q.toNat] := by
  have hsquare := modEq_iff_mersenne.1 (squareStages_value h hcop hsmall)
  push_cast at hsquare
  exact hres.value.trans hsquare

end SquareStages

/-- Settles O49: the squaring of a valid state is exact by the guard. -/
theorem mulComputesSquareMinusTwo : Obligations.MulComputesSquareMinusTwo := by
  intro s hs hcop hv
  obtain ⟨l, hmul, hres, -⟩ := mulProc_result hs
  refine ⟨(s.setX l).setIcnt (s.icnt + 1#64), ?completes, hres.valid, ?value, ?unsaturated⟩
  case completes => rw [exec_mul_of_initok hs.2, hmul, finishState]
  case value =>
    refine modEq_iff_mersenne.2 ?_
    push_cast
    exact hres.square_sub_two hs.tables hcop (smallLimbs_of_valid hs.tables hv)
  case unsaturated =>
    intro heq
    refine hres.not_saturated ?_
    rw [← natCast_two_pow_sub_one]
    exact congrArg Nat.cast heq

end Sys2Proof.Machine
end

section
/-! PROOFS. RESIDUE (44_carry_engine.md section 6, R207): the packed word, and when every limb is 0. -/

namespace Sys2Proof.Machine

section Zero
variable {x : List Word} {dw : List Digit}

theorem allZero_iff (x : List Word) : allZero x = true ↔ ∀ a ∈ x, a = 0#64 := by
  simp [allZero, List.all_eq_true]

/-- Limbs that are all 0 pack to what was packed before (R207). -/
theorem packLimbs_of_zero (h : ∀ a ∈ x, a = 0#64) (j : Nat) (r : Word) : packLimbs x dw j r = r := by
  induction x generalizing dw j r with
  | nil => rfl
  | cons a x ih =>
    cases dw with
    | nil => rfl
    | cons d dw =>
      obtain ⟨rfl, hx⟩ := List.forall_mem_cons.1 h
      rw [packLimbs, BitVec.zero_shiftLeft, BitVec.or_zero, ih hx, ite_self]

/-- Z says that every limb is 0: the packed word is then 0 too (R28, R207). -/
theorem residueFlag_iff (m : Memory) : residueFlag m = true ↔ ∀ a ∈ m.x, a = 0#64 := by
  rw [residueFlag, Bool.and_eq_true, allZero_iff, decide_eq_true_eq]
  exact ⟨fun h => h.2, fun h => ⟨packLimbs_of_zero h 0 _, h⟩⟩

/-- A reported 0 says the same (R207, R208). -/
theorem residueValue_eq_zero_iff (m : Memory) : residueValue m = 0#64 ↔ ∀ a ∈ m.x, a = 0#64 := by
  constructor
  · intro h
    rw [residueValue] at h
    split at h
    · next hr => exact absurd h hr
    · split at h
      · next hz => exact (allZero_iff _).1 hz
      · exact absurd h residueAlias_ne_zero
  · intro h
    rw [residueValue, packLimbs_of_zero h, if_neg (by simp), if_pos ((allZero_iff _).2 h)]

/-- Valid limbs of value 0 are all 0 (R180). -/
theorem limbValue_eq_zero_iff (h : x.length = dw.length) : limbValue x dw = 0 ↔ ∀ a ∈ x, a = 0#64 := by
  induction x generalizing dw with
  | nil => simp [limbValue]
  | cons a x ih =>
    cases dw with
    | nil => cases h
    | cons d dw =>
      rw [limbValue, Nat.add_eq_zero_iff, Nat.mul_eq_zero, ih (Nat.succ.inj h), List.forall_mem_cons, BitVec.toNat_eq]
      simp

end Zero

/-- RESIDUE on an initialised engine writes `S[rd]`, RESID and Z (R207). -/
theorem exec_residue_of_initok {s : State} (hi : s.status.initok = true) (rd : SReg) :
    exec (.residue rd) s =
      .next (((s.writeS rd (residueValue s.mem)).setResid (residueValue s.mem)).setZ (residueFlag s.mem)) :=
  needInit_pass _ _ _ hi

/-- Settles O54: a reported 0 and the flag both mean that every limb is 0 (`residueFlag_iff`). -/
theorem residueZeroFlagIsExact : Obligations.ResidueZeroFlagIsExact := by
  intro s rd hi
  have hread : (((s.writeS rd (residueValue s.mem)).setResid (residueValue s.mem)).setZ (residueFlag s.mem)).readS rd =
      residueValue s.mem := readS_writeS_same s rd _
  refine ⟨_, exec_residue_of_initok hi rd, rfl, hread.symm, residueFlag_iff s.mem, ?_⟩
  rw [hread]
  exact residueValue_eq_zero_iff s.mem

section Packing

/-- ORing a limb in above a narrower word adds it (R207). -/
theorem or_shiftLeft_eq (r x : Word) {j : Nat} (hj : j < 64) (hr : r.toNat < 2 ^ j) :
    r ||| (x <<< j) = wordOf (r.toNat + 2 ^ j * x.toNat) := by
  have hsplit : 2 ^ 64 = 2 ^ j * 2 ^ (64 - j) := by rw [← pow_add]; congr 1; omega
  have hmod : 2 ^ j * x.toNat % 2 ^ 64 = 2 ^ j * (x.toNat % 2 ^ (64 - j)) := by
    rw [hsplit, Nat.mul_mod_mul_left]
  have hfit : r.toNat + 2 ^ j * (x.toNat % 2 ^ (64 - j)) < 2 ^ 64 := by
    have hlt : 2 ^ j * (x.toNat % 2 ^ (64 - j) + 1) ≤ 2 ^ 64 :=
      hsplit ▸ Nat.mul_le_mul_left _ (Nat.mod_lt _ (Nat.two_pow_pos _))
    rw [Nat.mul_succ] at hlt
    omega
  apply BitVec.eq_of_toNat_eq
  rw [BitVec.toNat_or, BitVec.toNat_shiftLeft, Nat.shiftLeft_eq, Nat.mul_comm x.toNat, hmod, Nat.or_comm,
    ← Nat.two_pow_add_eq_or_of_lt hr, toNat_wordOf, ← Nat.add_mod_mod, hmod, Nat.mod_eq_of_lt hfit, Nat.add_comm]

/-- The packing loop adds the value of valid limbs at its bit position, mod 2^64 (R207). -/
theorem packLimbs_of_valid {x : List Word} {dw : List Digit} (h : validLimbs x dw = true) (j : Nat) (r : Word)
    (hr : r.toNat < 2 ^ j) : packLimbs x dw j r = wordOf (r.toNat + 2 ^ j * limbValue x dw) := by
  induction x generalizing dw j r with
  | nil =>
    cases dw with
    | nil => rw [packLimbs, limbValue, Nat.mul_zero, Nat.add_zero, wordOf_toNat]; all_goals exact nofun
    | cons => cases h
  | cons a x ih =>
    cases dw with
    | nil => cases h
    | cons d dw =>
      rw [validLimbs, Bool.and_eq_true, decide_eq_true_eq] at h
      obtain ⟨ha, hx⟩ := h
      rw [packLimbs]
      split
      · next hj =>
        have hsum : r.toNat + 2 ^ j * a.toNat < 2 ^ (j + d.toNat) := by
          have hle : 2 ^ j * (a.toNat + 1) ≤ 2 ^ j * 2 ^ d.toNat := Nat.mul_le_mul_left _ ha
          rw [Nat.mul_succ, ← pow_add] at hle
          omega
        rw [or_shiftLeft_eq r a hj hr, ih hx _ _ ((toNat_wordOf _).trans_le (Nat.mod_le _ _) |>.trans_lt hsum)]
        apply BitVec.eq_of_toNat_eq
        rw [toNat_wordOf, toNat_wordOf, toNat_wordOf, Nat.mod_add_mod, limbValue, pow_add]
        ring_nf
      · next hj =>
        obtain ⟨k, hk⟩ : 2 ^ 64 ∣ 2 ^ j * limbValue (a :: x) (d :: dw) :=
          (Nat.pow_dvd_pow 2 (Nat.not_lt.1 hj)).trans (Nat.dvd_mul_right _ _)
        apply BitVec.eq_of_toNat_eq
        rw [toNat_wordOf, hk, Nat.add_mul_mod_self_left, Nat.mod_eq_of_lt (word_toNat_lt r)]

/-- RESIDUE packs the low 64 bits of the value of a valid state (R207). -/
theorem packLimbs_eq_value {m : Memory} (h : validLimbs m.x m.dw = true) :
    packLimbs m.x m.dw 0 0#64 = wordOf (limbValue m.x m.dw) := by
  rw [packLimbs_of_valid h 0 _ (by decide)]
  simp

end Packing

/-- Settles O53: the value that serves every state is the parameter, of which only that it is not 0 is used. -/
theorem residueReportsLowWord : Obligations.ResidueReportsLowWord := by
  refine ⟨Config.residueAlias, residueAlias_ne_zero, fun s rd hi hv => ?_⟩
  have hflag : residueFlag s.mem = decide (∀ a ∈ s.mem.x, a = 0#64) := by
    rw [Bool.eq_iff_iff, residueFlag_iff, decide_eq_true_eq]
  have hzero : wordOf (limbValue s.mem.x s.mem.dw) = 0#64 ↔ limbValue s.mem.x s.mem.dw % 2 ^ 64 = 0 := by
    rw [BitVec.toNat_eq, toNat_wordOf]
    rfl
  refine ⟨_, residueValue s.mem, ?completes, ?value, onlyScalar_writeS rd (residueValue s.mem) _⟩
  case completes =>
    rw [exec_residue_of_initok hi rd, hflag]
    rfl
  case value =>
    rw [residueValue, packLimbs_eq_value hv]
    simp only [ne_eq, hzero, allZero_iff]

end Sys2Proof.Machine
end

section
/-! PROOFS. The Lucas-Lehmer verdict (44_carry_engine.md section 5, R205): by induction over the squarings, from a seed that
need not be a valid state (R201). -/

namespace Sys2Proof.Machine

section Verdict
variable {s : State}

/-- The seed's limbs are small, also where limb 0 is too narrow for it (R201). -/
theorem smallLimbs_seed (s : State) : SmallLimbs s.n (seedProc s).mem.x := by
  have hfirst : cell (seedProc s).mem.x 0 = 4#64 := rfl
  have hrest (i : Nat) (hi : 1 ≤ i) : cell (seedProc s).mem.x i = 0#64 := cell_cons_replicate_zero _ _ hi
  refine ⟨4, fun i _ => ?_, ?_⟩
  · cases i with
    | zero => rw [hfirst]; decide
    | succ i => rw [hrest _ (Nat.succ_pos i)]; decide
  · rw [Finset.sum_eq_single_of_mem 0 (Finset.mem_range.2 s.n_pos) fun i _ hne => by
      rw [hrest i (Nat.pos_of_ne_zero hne)]; rfl, hfirst]
    decide

/-- The seed's value is 4 (R200). -/
theorem limbValue_seed (h : EngineTables s) : limbValue (seedProc s).mem.x s.mem.dw = 4 := by
  have hrest (i : Nat) (hi : i ≠ 0) : cell (seedProc s).mem.x i = 0#64 :=
    cell_cons_replicate_zero _ _ (Nat.pos_of_ne_zero hi)
  rw [h.limbValue_eq (seedProc_length s), Finset.sum_eq_single_of_mem 0 (Finset.mem_range.2 s.n_pos) fun i _ hne => by
    rw [hrest i hne, BitVec.toNat_ofNat, Nat.zero_mod, Nat.zero_mul], limbAddr_zero s.n_pos]
  rfl

/-- A squaring moves a value congruent to a term of the Lucas-Lehmer sequence to one congruent to the next (R19, R197). -/
theorem MulResult.lucasLehmer_succ {l : List Word} (hres : MulResult s l) (h : EngineTables s)
    (hcop : Nat.Coprime s.q.toNat s.n) (hsmall : SmallLimbs s.n s.mem.x) {k : Nat}
    (hk : (limbValue s.mem.x s.mem.dw : Int) ≡ lucasLehmer k [ZMOD mersenne s.q.toNat]) :
    (limbValue l s.mem.dw : Int) ≡ lucasLehmer (k + 1) [ZMOD mersenne s.q.toNat] := by
  have := ((hres.square_sub_two h hcop hsmall).trans (hk.pow 2)).sub_right 2
  rwa [add_sub_cancel_right] at this

/-- The engine after at least one squaring: a valid state, not all-saturated, of a value congruent to term k of the
Lucas-Lehmer sequence. -/
structure Squared (s : State) (k : Nat) : Prop where
  ready : Ready s
  coprime : Nat.Coprime s.q.toNat s.n
  valid : validLimbs s.mem.x s.mem.dw = true
  not_saturated : (limbValue s.mem.x s.mem.dw : Int) ≠ mersenne s.q.toNat
  term : (limbValue s.mem.x s.mem.dw : Int) ≡ lucasLehmer k [ZMOD mersenne s.q.toNat]

/-- One squaring from small limbs (R197, R201). -/
theorem squared_of_mulProc (hs : Ready s) (hcop : Nat.Coprime s.q.toNat s.n) (hsmall : SmallLimbs s.n s.mem.x) {k : Nat}
    (hk : (limbValue s.mem.x s.mem.dw : Int) ≡ lucasLehmer k [ZMOD mersenne s.q.toNat]) :
    ∃ t, mulProc s = some t ∧ Squared t (k + 1) ∧ t.q = s.q := by
  obtain ⟨l, hmul, hres, hready⟩ := mulProc_result hs
  exact ⟨_, hmul, ⟨hready, hcop, hres.valid, hres.not_saturated, hres.lucasLehmer_succ hs.tables hcop hsmall hk⟩, rfl⟩

/-- Repeated squaring of a squared state (R202). -/
theorem Squared.repeatMul {k : Nat} (count : Nat) (h : Squared s k) :
    ∃ t, repeatMul count s = some t ∧ Squared t (k + count) ∧ t.q = s.q := by
  induction count generalizing s k with
  | zero => exact ⟨s, rfl, h, rfl⟩
  | succ count ih =>
    obtain ⟨u, hmul, hu, hq⟩ := squared_of_mulProc h.ready h.coprime (smallLimbs_of_valid h.ready.tables h.valid) h.term
    obtain ⟨t, hrep, ht, hq'⟩ := ih hu
    refine ⟨t, by rw [repeatMul_succ, hmul]; exact hrep, ?_, hq'.trans hq⟩
    rwa [show k + (count + 1) = k + 1 + count by omega]

/-- A squared state has the residue 0 exactly when the Mersenne number divides the term: its value is below the Mersenne
number (R205). -/
theorem Squared.allZero_iff_dvd {k : Nat} (h : Squared s k) :
    (∀ a ∈ s.mem.x, a = 0#64) ↔ mersenne s.q.toNat ∣ lucasLehmer k := by
  have ht := h.ready.tables
  have hnonneg : (0 : Int) ≤ limbValue s.mem.x s.mem.dw := Int.natCast_nonneg _
  have hlt : (limbValue s.mem.x s.mem.dw : Int) < mersenne s.q.toNat :=
    lt_of_le_of_ne (limbValue_le_mersenne ht.digitWidths h.valid) h.not_saturated
  rw [← limbValue_eq_zero_iff (validLimbs_iff.1 h.valid).1, ← Int.modEq_zero_iff_dvd]
  constructor
  · intro hz
    have := h.term
    rw [hz] at this
    exact this.symm
  · intro hk
    have hmod : (limbValue s.mem.x s.mem.dw : Int) % mersenne s.q.toNat = 0 := h.term.trans hk
    rw [Int.emod_eq_of_lt hnonneg hlt] at hmod
    exact_mod_cast hmod

/-- RUN then RESIDUE on a state of the invariant: Z says whether every limb that RUN leaves is 0 (R202, R207). -/
theorem execAll_run_residue (hs : Ready s) {ra rd : SReg} {t : State}
    (ht : repeatMul (runLength s ra) (seedProc s) = some t) :
    ∃ u, execAll [.run ra, .residue rd] s = .next u ∧ (u.status.z = true ↔ ∀ a ∈ t.mem.x, a = 0#64) := by
  have hrun : exec (.run ra) s = .next t := by rw [exec_run_of_initok hs.2, ht, finishState]
  have hi : t.status.initok = true := by
    obtain ⟨l, hl⟩ := repeatMul_some ht
    rw [hl]
    exact hs.2
  refine ⟨((t.writeS rd (residueValue t.mem)).setResid (residueValue t.mem)).setZ (residueFlag t.mem), ?_,
    residueFlag_iff t.mem⟩
  rw [execAll_cons_next _ hrun, execAll_singleton]
  exact exec_residue_of_initok hi rd

end Verdict

/-- Settles O52: for q = 2 no squaring is made and the seed is not 0, as 3 does not divide 4; for greater q the state after
the squarings decides. -/
theorem runAndResidueDecideLucasLehmer : Obligations.RunAndResidueDecideLucasLehmer := by
  intro s ra rd hs hcop h0
  have hlen : runLength s ra = s.q.toNat - 2 := if_pos h0
  have hq := hs.tables.two_le_q
  obtain hcount | ⟨count, hcount⟩ : s.q.toNat - 2 = 0 ∨ ∃ count, s.q.toNat - 2 = count + 1 := by
    cases h : s.q.toNat - 2 with
    | zero => exact .inl rfl
    | succ count => exact .inr ⟨count, rfl⟩
  · obtain ⟨u, hu, hz⟩ := execAll_run_residue hs (ra := ra) (rd := rd) (by rw [hlen, hcount, repeatMul])
    have hq2 : s.q.toNat = 2 := by omega
    refine ⟨u, hu, hz.trans ?_⟩
    rw [hq2]
    refine iff_of_false (fun hall => ?_) (by decide)
    exact absurd (hall _ (List.mem_cons_self ..)) (by decide)
  · have hseed : (limbValue (seedProc s).mem.x (seedProc s).mem.dw : Int) ≡ lucasLehmer 0
        [ZMOD mersenne (seedProc s).q.toNat] := by
      have hdw : (seedProc s).mem.dw = s.mem.dw := rfl
      rw [hdw, limbValue_seed hs.tables]
      rfl
    obtain ⟨v, hmul, hv, hqv⟩ := squared_of_mulProc (ready_seedProc hs) hcop (smallLimbs_seed s) hseed
    obtain ⟨t, hrep, ht, hqt⟩ := hv.repeatMul count
    have hrun : repeatMul (runLength s ra) (seedProc s) = some t := by
      rw [hlen, hcount, repeatMul_succ, hmul]
      exact hrep
    obtain ⟨u, hu, hz⟩ := execAll_run_residue hs (rd := rd) hrun
    have hqs : t.q = s.q := hqt.trans hqv
    refine ⟨u, hu, hz.trans ?_⟩
    rw [ht.allZero_iff_dvd, natCast_two_pow_sub_one, hqs, hcount, Nat.add_comm 0 1, Nat.add_comm 1 count]

end Sys2Proof.Machine
end

section
/-! PROOFS. The invariant of the machine (10_state.md sections 4 to 6, 60_exceptions.md): every effect of a command keeps
it, and so does every host transaction; and no state that meets it reaches a stop of the model. -/

namespace Sys2Proof.Machine

section Kept
variable {s t : State}

/-- What the invariant does not speak of may change: the scalar registers, ICNT and the model's own fields. -/
theorem MachineInv.of_same (h : MachineInv s) (e : SameTables s t) (hx : t.mem.x = s.mem.x) (hstatus : t.status = s.status)
    (hresid : t.resid = s.resid) (hfault : t.fault = s.fault) (hfinfo : t.finfo = s.finfo) : MachineInv t := by
  have hmem : t.mem = s.mem := by
    cases hm : t.mem
    cases hm' : s.mem
    have hw := e.w; have hu := e.u; have hd := e.dw
    rw [hm, hm'] at hx hw hu hd
    cases hx; cases hw; cases hu; cases hd
    rfl
  constructor
  case idle => rw [hstatus]; exact h.idle
  case logn_le => rw [e.logn]; exact h.logn_le
  case tables =>
    intro hi
    have ht := h.tables (hstatus ▸ hi)
    exact ht.of_same e (hx ▸ ht.x_length) (hx ▸ ht.x_canonical)
  case no_tables => rw [hstatus, hmem, e.strat]; exact h.no_tables
  case halted => rw [hstatus, hresid]; exact h.halted
  case fail_init => rw [hstatus]; exact h.fail_init
  case no_record => rw [hstatus, hfault, hfinfo]; exact h.no_record
  case fault_reserved => rw [hfault]; exact h.fault_reserved

theorem MachineInv.writeS (h : MachineInv s) (k : SReg) (v : Word) : MachineInv (s.writeS k v) :=
  h.of_same ⟨rfl, rfl, rfl, rfl, rfl, rfl, rfl, rfl⟩ rfl rfl rfl rfl rfl

/-- Taking a transaction from the host's list, and the data of a read. -/
theorem MachineInv.hostFields (h : MachineInv s) (inbox : List HostMove) (reply : Option Word) :
    MachineInv { s with inbox := inbox, reply := reply } :=
  h.of_same ⟨rfl, rfl, rfl, rfl, rfl, rfl, rfl, rfl⟩ rfl rfl rfl rfl rfl

/-- Bits 31:8 of a recorded fault are zero (R29). -/
theorem faultWord_reserved (code : FaultCode) (cmdw : Command) : (faultWord code cmdw).extractLsb' 8 24 = 0#24 := by
  have h1 := command_toNat_lt cmdw
  have h2 : (faultCode code).toNat < 2 ^ 8 := (faultCode code).isLt
  apply BitVec.eq_of_toNat_eq
  rw [BitVec.extractLsb'_toNat, faultWord_eq, toNat_wordOf, Nat.shiftRight_eq_div_pow, BitVec.toNat_ofNat]
  omega

/-- Recording a fault keeps the invariant (R243). -/
theorem MachineInv.raiseFault (h : MachineInv s) (code : FaultCode) (cmdw : Command) (info : Word) :
    MachineInv (raiseFault code cmdw info s) := by
  rcases raiseFault_cases code cmdw info s with e | ⟨-, -, e⟩
  · exact e.symm ▸ h
  · rw [e]
    constructor
    case idle => exact h.idle
    case logn_le => exact h.logn_le
    case tables =>
      intro hi
      have ht := h.tables hi
      exact ht.of_same ⟨rfl, rfl, rfl, rfl, rfl, rfl, rfl, rfl⟩ ht.x_length ht.x_canonical
    case no_tables => exact h.no_tables
    case halted => exact h.halted
    case fail_init => exact h.fail_init
    case no_record => exact fun he => Bool.noConfusion he
    case fault_reserved => exact faultWord_reserved code cmdw

/-- SRESET establishes the invariant (R48, R229). -/
theorem machineInv_softReset (s : State) : MachineInv (softReset s) :=
  resetMeetsMachineInvariant.of_same ⟨rfl, rfl, rfl, rfl, rfl, rfl, rfl, rfl⟩ rfl rfl rfl rfl rfl

/-- Hardware reset establishes the invariant (R48, R270). -/
theorem machineInv_hardReset (s : State) : MachineInv (hardReset s) :=
  resetMeetsMachineInvariant.of_same ⟨rfl, rfl, rfl, rfl, rfl, rfl, rfl, rfl⟩ rfl rfl rfl rfl rfl

/-- What RESIDUE writes keeps the invariant: an initialised engine is not halted (R207, R252). -/
theorem MachineInv.residue (h : MachineInv s) (hi : s.status.initok = true) (rd : SReg) (v : Word) (b : Bool) :
    MachineInv (((s.writeS rd v).setResid v).setZ b) := by
  constructor
  case idle => exact h.idle
  case logn_le => exact h.logn_le
  case tables =>
    intro _
    have ht := h.tables hi
    exact ht.of_same ⟨rfl, rfl, rfl, rfl, rfl, rfl, rfl, rfl⟩ ht.x_length ht.x_canonical
  case no_tables => exact h.no_tables
  case halted => exact fun hf => absurd (hi.symm.trans (h.halted hf).1) (by decide)
  case fail_init => exact h.fail_init
  case no_record => exact h.no_record
  case fault_reserved => exact h.fault_reserved

/-- Every effect keeps the invariant. -/
theorem CommandEffect.machineInv {i : Instr} (he : CommandEffect i s t) (h : MachineInv s) : MachineInv t := by
  cases he with
  | nothing => exact h
  | faulted => exact h.raiseFault _ _ _
  | scalar => exact h.writeS _ _
  | limbs l c hi hwf =>
    have ht := h.tables hi
    obtain ⟨hw, -, -, hcanon, -⟩ := (Memory.wf_iff _).1 (hwf ht.wf ht.x_length)
    exact (ready_setX_setIcnt ⟨h, hi⟩ (hw.symm.trans ht.w_length) hcanon c).1
  | residue rd v b _ hi => exact h.residue hi rd v b

end Kept

section Initialising
variable {s : State} {l q : Nat}

/-- A successful INIT or AUTOINIT of an engine that is not halted establishes the tables (R160, R47). -/
theorem MachineInv.initialised (h : MachineInv s) (hf : s.status.fatal = false) (hl : l ≤ 26) (hq : 2 ≤ q)
    (hg : 2 * (q / 2 ^ l) + l ≤ 60) : MachineInv (initialised l q s) := by
  have ht := engineTables_initialised s hl hq hg
  constructor
  case idle => exact h.idle
  case logn_le => exact ht.logn_le
  case tables => exact fun _ => ht
  case no_tables => exact fun hi => Bool.noConfusion hi
  case halted => exact fun hf' => absurd (hf.symm.trans hf') (by decide)
  case fail_init => exact fun hfail => Bool.noConfusion hfail
  case no_record => exact h.no_record
  case fault_reserved => exact h.fault_reserved

/-- A failed INIT leaves no memory and reports nothing (R161). -/
theorem MachineInv.initFailed (h : MachineInv s) (hl : l ≤ 26) : MachineInv ((initStart l q s).setFail true) := by
  constructor
  case idle => exact h.idle
  case logn_le => exact (toNat_logn hl).trans_le hl
  case tables => exact fun hi => Bool.noConfusion hi
  case no_tables => exact fun _ => ⟨rfl, rfl⟩
  case halted => exact fun _ => ⟨rfl, rfl, rfl⟩
  case fail_init => exact fun _ => rfl
  case no_record => exact h.no_record
  case fault_reserved => exact h.fault_reserved

/-- A fatal halt leaves no memory; Z and RESID are 0 when they were (R245, R252). -/
theorem MachineInv.fatalHalt (h : MachineInv s) (hz : s.status.z = false) (hresid : s.resid = 0#64) (code : FaultCode)
    (cmdw : Command) (info : Word) : MachineInv (fatalHalt code cmdw info s) := by
  rw [fatalHalt_eq]
  constructor
  case idle => exact h.idle
  case logn_le => exact h.logn_le
  case tables => exact fun hi => Bool.noConfusion hi
  case no_tables => exact fun _ => ⟨rfl, rfl⟩
  case halted => exact fun _ => ⟨rfl, hz, hresid⟩
  case fail_init => exact fun _ => rfl
  case no_record => exact fun _ hfatal => Bool.noConfusion hfatal
  case fault_reserved =>
    split
    · exact h.fault_reserved
    · exact faultWord_reserved code cmdw

/-- INIT of an engine that is not halted keeps the invariant (R160). -/
theorem MachineInv.exec_init (h : MachineInv s) (hf : s.status.fatal = false) {ra rb : SReg} {t : State}
    (ht : exec (.init ra rb) s = .next t) : MachineInv t := by
  rcases execInit_cases ht with rfl | rfl | ⟨hl, hq, rfl⟩
  · exact h.raiseFault _ _ _
  · exact h.raiseFault _ _ _
  · by_cases hg : 2 * ((s.readS rb).toNat / 2 ^ (s.readS ra).toNat) + (s.readS ra).toNat ≤ 60
    · rw [initProc_of_guard _ s hl hg]
      exact h.initialised hf hl hq hg
    · rw [initProc_of_rejected _ s (by omega)]
      exact h.initFailed hl

/-- AUTOINIT of an engine that is not halted keeps the invariant (R165). -/
theorem MachineInv.exec_autoinit (h : MachineInv s) (hf : s.status.fatal = false) {ra : SReg} {t : State}
    (ht : exec (.autoinit ra) s = .next t) : MachineInv t := by
  rcases execAutoinit_cases ht with rfl | ⟨hq, rfl⟩
  · exact h.raiseFault _ _ _
  · by_cases hmax : (s.readS ra).toNat ≤ 1207959551
    · obtain ⟨l, hl, hg, -, hauto⟩ := autoInit_of_le hmax
      rw [hauto]
      exact h.initialised hf hl hq hg
    · rw [autoInit_of_gt (by omega)]
      exact (h.initFailed le_rfl).fatalHalt rfl rfl _ _ _

end Initialising

section Steps
variable {s t : State}

/-- A command keeps the invariant, on a halted engine only SRESET (R252). -/
theorem MachineInv.exec {i : Instr} (h : MachineInv s) (hf : s.status.fatal = true → i = .sreset)
    (ht : exec i s = .next t) : MachineInv t := by
  by_cases hsreset : i = .sreset
  · subst hsreset
    cases ht
    exact machineInv_softReset s
  have hrun : s.status.fatal = false := Bool.eq_false_iff.2 fun hfatal => hsreset (hf hfatal)
  by_cases hinit : ∃ ra rb, i = .init ra rb
  · obtain ⟨ra, rb, rfl⟩ := hinit
    exact h.exec_init hrun ht
  by_cases hauto : ∃ ra, i = .autoinit ra
  · obtain ⟨ra, rfl⟩ := hauto
    exact h.exec_autoinit hrun ht
  · push Not at hinit hauto
    exact (exec_effect ht hinit hauto hsreset).machineInv h

/-- The SRESET word decodes to SRESET only (R85, R252). -/
theorem decode_sresetWord {i : Instr} (h : decode sresetWord = .ok i) : i = .sreset := by
  cases h
  rfl

/-- A write to CMD keeps the invariant (R64, R252). -/
theorem MachineInv.issue {v : Word} (h : MachineInv s) (ht : issue v s = .next t) : MachineInv t := by
  rcases issue_cases v s with ⟨-, -, e⟩ | e | ⟨hhalt, -, i, hd, e⟩ <;> rw [e] at ht
  · cases ht
    exact h
  · cases ht
    exact h.raiseFault _ _ _
  · refine h.exec (fun hf => decode_sresetWord ?_) ht
    rw [← hhalt hf]
    exact hd

end Steps

/-- Settles O56: transaction by transaction, and for a write to CMD effect by effect. -/
theorem stepKeepsMachineInvariant : Obligations.StepKeepsMachineInvariant := by
  intro s t h ht
  cases hin : s.inbox with
  | nil =>
    rw [step_idle hin] at ht
    cases ht
    exact h
  | cons m rest =>
    have h' : MachineInv { s with inbox := rest } := h.hostFields rest s.reply
    rw [step_serveIdle hin h.idle] at ht
    rcases serveIdle_cases m { s with inbox := rest } with e | ⟨v, -, e⟩ | ⟨k, v, e⟩ | ⟨v, e⟩ | ⟨-, e⟩ <;> rw [e] at ht
    case inr.inl => exact h'.issue ht
    all_goals cases ht
    · exact h'
    · exact h'.writeS k v
    · exact h.hostFields rest (some v)
    · exact machineInv_hardReset _

section Progress
variable {s : State} {cmdw : Command} {rest : Outcome}

theorem continues_next (s : State) : Continues (.next s) := ⟨s, rfl⟩

/-- A check goes on when what follows it does. -/
theorem needInit_continues (h : s.status.initok = true → Continues rest) : Continues (needInit cmdw s rest) := by
  cases hi : s.status.initok with
  | true => rw [needInit_pass _ _ _ hi]; exact h hi
  | false => rw [needInit_stop _ _ _ hi]; exact continues_next _

theorem needField_continues {v : Word} (h : Continues rest) : Continues (needField cmdw v s rest) := by
  by_cases hv : v.toNat < Config.P
  · rw [needField_pass _ _ _ _ hv]; exact h
  · rw [needField_stop _ _ _ _ hv]; exact continues_next _

theorem needIndex_continues {k : Nat} (h : k < s.n → Continues rest) : Continues (needIndex cmdw k s rest) := by
  by_cases hk : k < s.n
  · rw [needIndex_pass _ _ _ _ hk]; exact h hk
  · rw [needIndex_stop _ _ _ _ hk]; exact continues_next _

theorem needArg_continues {ok : Bool} {v : Word} (h : Continues rest) : Continues (needArg ok cmdw v s rest) := by
  cases ok with
  | true => rw [needArg_pass _ _ _ _ _ rfl]; exact h
  | false => rw [needArg_stop _ _ _ _ _ rfl]; exact continues_next _

theorem loadCell_continues {rd : SReg} {idx : Nat} {v : Word} : Continues (loadCell cmdw rd idx v s) :=
  needInit_continues fun _ => needIndex_continues fun _ => continues_next _

/-- A command on X goes on when its loop ends. -/
theorem finishX_continues {x : Option (List Word)} (h : ∃ y, x = some y) : Continues (finishX x s) := by
  obtain ⟨y, rfl⟩ := h
  exact continues_next _

theorem finishState_continues {o : Option State} (h : ∃ t, o = some t) : Continues (finishState o) := by
  obtain ⟨t, rfl⟩ := h
  exact continues_next t

/-- Every command goes on from a state of the invariant: the carry loops end (R189, R240). -/
theorem MachineInv.exec_continues (h : MachineInv s) (i : Instr) : Continues (Machine.exec i s) := by
  cases i with
  | nop | sreset | ldi | mov | fred => exact continues_next _
  | rdcr rd k =>
    simp only [Machine.exec, execRdcr]
    split <;> exact continues_next _
  | fadd | fsub | fmul => exact needField_continues (needField_continues (continues_next _))
  | fsqr | fpow => exact needField_continues (continues_next _)
  | finv =>
    refine needField_continues ?_
    split <;> exact continues_next _
  | vmulw | vmulu | vsqr | nttf | ntti | seed | residue => exact needInit_continues fun _ => continues_next _
  | init => exact needArg_continues (needArg_continues (continues_next _))
  | autoinit => exact needArg_continues (continues_next _)
  | carry =>
    exact needInit_continues fun hi =>
      finishX_continues (carryProc_ends (h.tables hi).digitWidths (h.tables hi).x_length)
  | add32 =>
    exact needInit_continues fun hi => needArg_continues (needIndex_continues fun hk =>
      finishX_continues (addProc_ends (h.tables hi).digitWidths _ (h.tables hi).x_length hk))
  | add64 =>
    exact needInit_continues fun hi => needIndex_continues fun hk =>
      finishX_continues (addProc_ends (h.tables hi).digitWidths _ (h.tables hi).x_length hk)
  | sub32 =>
    refine needInit_continues fun hi => needArg_continues (needIndex_continues fun hk => finishX_continues ?_)
    rw [subProc_eq_addProc]
    exact addProc_ends (h.tables hi).digitWidths _ (h.tables hi).x_length hk
  | mul =>
    refine needInit_continues fun hi => finishState_continues ?_
    obtain ⟨l, hmul, -⟩ := mulProc_result ⟨h, hi⟩
    exact ⟨_, hmul⟩
  | run =>
    refine needInit_continues fun hi => finishState_continues ?_
    obtain ⟨t, hrep, -⟩ := repeatMul_result _ (ready_seedProc ⟨h, hi⟩)
    exact ⟨t, hrep⟩
  | ldx | ldw | ldu | ldd => exact loadCell_continues
  | stx => exact needInit_continues fun _ => needIndex_continues fun _ => needField_continues (continues_next _)

/-- A write to CMD goes on (R64). -/
theorem MachineInv.issue_continues (h : MachineInv s) (v : Word) : Continues (Machine.issue v s) := by
  rcases issue_cases v s with ⟨-, -, e⟩ | e | ⟨-, -, i, -, e⟩ <;> rw [e]
  · exact continues_next _
  · exact continues_next _
  · exact h.exec_continues i

end Progress

/-- Settles O58: an engine of the invariant is not busy, so every transaction is served, and every command goes on. -/
theorem everyStepContinues : Obligations.EveryStepContinues := by
  intro s h
  cases hin : s.inbox with
  | nil =>
    rw [step_idle hin]
    exact continues_next _
  | cons m rest =>
    have h' : MachineInv { s with inbox := rest } := h.hostFields rest s.reply
    rw [step_serveIdle hin h.idle]
    rcases serveIdle_cases m { s with inbox := rest } with e | ⟨v, -, e⟩ | ⟨k, v, e⟩ | ⟨v, e⟩ | ⟨-, e⟩ <;> rw [e]
    case inr.inl => exact h'.issue_continues v
    all_goals exact continues_next _

end Sys2Proof.Machine
end
